-- ==== Sys2Proof/Word.lean ====
section
/-! DEFINITION. The bit-vector types of the OTPE: bytes, bus words, 64-bit values and byte offsets of the
register window (00_scope R6, R8). -/

namespace Sys2Proof

/-- A byte of a buffer. -/
abbrev Byte := BitVec 8

/-- A bus word, a command word, a 32-bit register (00_scope R6: the bus is 32 bits wide). -/
abbrev Word := BitVec 32

/-- A 64-bit value: a counter, a time, a discrepancy (00_scope R6). -/
abbrev DWord := BitVec 64

/-- A byte offset in the 4 KiB register window (20_memory R70: address bits 11:0). -/
abbrev Addr := BitVec 12

end Sys2Proof
end

