-- ==== Sys2Proof/Syntax.lean ====
section
/-! DEFINITION. The commands a host writes to CMD, one constructor per row of spec/opcode_table.json
(30_encoding R102, R103). A command has no operand fields (R100, R105). -/

namespace Sys2Proof

/-- The decoded command. The nine commands carry nothing. A reserved or illegal word keeps the bits that tell it
apart from the others of its row, because its completion reports the whole word (60_exceptions R221). -/
inductive Instr
  /-- OP 0x0, 45_control R210. -/
  | nop
  /-- OP 0x1, 40_base32 R130. -/
  | b32dec
  /-- OP 0x2, 41_hmac_sha1 R150. -/
  | hmac
  /-- OP 0x3, 42_truncation_hotp R166. -/
  | trunc
  /-- OP 0x4, 42_truncation_hotp R167. -/
  | hotp
  /-- OP 0x5, 43_totp R183. -/
  | tdiv
  /-- OP 0x6, 43_totp R187. -/
  | getcode
  /-- OP 0x7, 44_verify R201. -/
  | verify
  /-- OP 0x8, 45_control R211. -/
  | keyclr
  /-- The reserved word 0x9, 30_encoding R103. -/
  | reserved9
  /-- The reserved words 0xA and 0xB: `low` is bit 0, 30_encoding R103. -/
  | reservedAB (low : BitVec 1)
  /-- The reserved words 0xC to 0xF: `low` is bits 1:0, 30_encoding R103. -/
  | reservedCF (low : BitVec 2)
  /-- A word whose RSV field (bits 31:4) is not 0, with its OP field (bits 3:0), 30_encoding R101, R103. -/
  | illegalRsv (rsv : BitVec 28) (op : BitVec 4)
  deriving DecidableEq, Repr

end Sys2Proof
end

