-- ==== Sys2Proof/WellFormed.lean ====
section
/-! DEFINITION. Which terms of Instr are decodings of a command word (30_encoding R101, R103). -/

namespace Sys2Proof

/-- An illegal word has a non-zero RSV field (R103: "every word with RSV != 0 is illegal"); the other constructors
hold no more than their row's free bits. -/
def Instr.wf : Instr → Bool
  | .illegalRsv rsv _ => rsv != 0
  | .nop | .b32dec | .hmac | .trunc | .hotp | .tdiv | .getcode | .verify | .keyclr => true
  | .reserved9 | .reservedAB _ | .reservedCF _ => true

end Sys2Proof
end

