-- ==== Sys2Proof/Decode.lean ====
section
/-! DEFINITION. Decoding of command words, total over all words (30_encoding R100 to R103, R106), and the encoder
written from the same table. -/

namespace Sys2Proof

/-- The OP field, bits 3:0 (R100). -/
def opField (w : Word) : BitVec 4 := w.extractLsb' 0 4

/-- The RSV field, bits 31:4 (R100). -/
def rsvField (w : Word) : BitVec 28 := w.extractLsb' 4 28

/-- The command of an OP number under RSV = 0 (R102 for 0x0 to 0x8, R103 for 0x9 to 0xF). -/
def decodeOp (op : BitVec 4) : Instr :=
  match op.toNat with
  | 0 => .nop
  | 1 => .b32dec
  | 2 => .hmac
  | 3 => .trunc
  | 4 => .hotp
  | 5 => .tdiv
  | 6 => .getcode
  | 7 => .verify
  | 8 => .keyclr
  | 9 => .reserved9
  | 10 => .reservedAB 0
  | 11 => .reservedAB 1
  | _ => .reservedCF (op.extractLsb' 0 2)

/-- Decoding of the word written to CMD (R101): RSV is looked at first, and every word has a decoding. -/
def decodeWord (w : Word) : Instr :=
  if rsvField w = 0 then decodeOp (opField w) else .illegalRsv (rsvField w) (opField w)

/-- The OP number of an instruction (R102, R103). -/
def Instr.opNumber : Instr → BitVec 4
  | .nop => 0x0
  | .b32dec => 0x1
  | .hmac => 0x2
  | .trunc => 0x3
  | .hotp => 0x4
  | .tdiv => 0x5
  | .getcode => 0x6
  | .verify => 0x7
  | .keyclr => 0x8
  | .reserved9 => 0x9
  | .reservedAB low => 0b101#3 ++ low
  | .reservedCF low => 0b11#2 ++ low
  | .illegalRsv _ op => op

/-- The RSV bits of an instruction: 0 for all but the illegal words (R100, R103). -/
def Instr.rsvBits : Instr → BitVec 28
  | .illegalRsv rsv _ => rsv
  | .nop | .b32dec | .hmac | .trunc | .hotp | .tdiv | .getcode | .verify | .keyclr => 0
  | .reserved9 | .reservedAB _ | .reservedCF _ => 0

/-- The command word of an instruction: RSV above OP (R100). -/
def encode (i : Instr) : Word := i.rsvBits ++ i.opNumber

/-- The host's view of the decoder: an instruction of `nbits` bits, given as a number. A command is one 32-bit word
(R106); a shorter number is that word with zeros above, a longer one is no command. -/
def decodeTableWord (nbits w : Nat) : Option Instr :=
  if w % 2 ^ nbits < 2 ^ 32 then some (decodeWord (BitVec.ofNat 32 (w % 2 ^ nbits))) else none

end Sys2Proof
end

