-- ==== Sys2Proof/Machine/Params.lean ====
section
/-! DEFINITION. The fixed parameters of the block (00_scope R6) and the helpers that cut and join words
(00_scope R8, 20_memory R72, R73). -/

namespace Sys2Proof.Machine

/-- The constant of the ID register (10_state R23). -/
def idValue : Word := 0x4F545045

/-- The divisor of the time counter (43_totp R182). -/
def stepSeconds : Nat := 30

/-- The least and the largest legal digit count (10_state R25). -/
def minDigits : Nat := 1
def maxDigits : Nat := 10

/-- The bounds of the secret's length in characters (40_base32 R121). -/
def minSecret : Nat := 16
def maxSecret : Nat := 128

/-- The size of the KEY buffer, which bounds KEYLEN at use (41_hmac_sha1 R150). -/
def maxKey : Nat := 80

/-- The largest 64-bit value, where the window saturates (44_verify R197). -/
def maxCounter : Nat := 2 ^ 64 - 1

/-- `BE32(b0, b1, b2, b3)`: the first byte is the most significant (42_truncation_hotp R161). -/
def be32 (b0 b1 b2 b3 : Byte) : Word := b0 ++ b1 ++ b2 ++ b3

/-- `BE32^-1(h)`: the four bytes of a word, most significant first (41_hmac_sha1 R144). -/
def be32Bytes (h : Word) : List Byte :=
  [h.extractLsb' 24 8, h.extractLsb' 16 8, h.extractLsb' 8 8, h.extractLsb' 0 8]

/-- `BE64(c)`: the eight bytes of a 64-bit value, most significant first (41_hmac_sha1 R146). -/
def be64 (c : DWord) : List Byte :=
  be32Bytes (c.extractLsb' 32 32) ++ be32Bytes (c.extractLsb' 0 32)

/-- The word whose lanes hold four buffer bytes, the first in the least significant lane (20_memory R72). -/
def laneWord (b0 b1 b2 b3 : Byte) : Word := b3 ++ b2 ++ b1 ++ b0

/-- The four lane bytes of a bus word, lowest buffer byte first (20_memory R72). -/
def laneBytes (w : Word) : List Byte :=
  [w.extractLsb' 0 8, w.extractLsb' 8 8, w.extractLsb' 16 8, w.extractLsb' 24 8]

/-- The halves of a 64-bit register pair and their join `NAME_HI ‖ NAME_LO` (10_state R52). -/
def loHalf (v : DWord) : Word := v.extractLsb' 0 32
def hiHalf (v : DWord) : Word := v.extractLsb' 32 32
def pair (hi lo : Word) : DWord := hi ++ lo

/-- One bit as a Bool, for the fields of a written word. -/
def bitOf (w : Word) (i : Nat) : Bool := w.getLsbD i

end Sys2Proof.Machine
end

