-- ==== Sys2Proof/Machine/State.lean ====
section
/-! DEFINITION. The state of the OTPE as plain data (10_state R20 to R65), its value at reset, and the reasons a step
can stop. -/

namespace Sys2Proof.Machine

/-- The byte buffers DIGEST, CODESTR, CAND, SECRET and KEY (10_state R47 to R51), keyed by byte offset in the register
window. Canonical: offsets strictly rising, no entry 0x00; an unlisted offset reads 0x00, the reset contents (R21). -/
abbrev Memory := List Host.Cell

/-- The five byte buffers of the register map (10_state R21). -/
inductive Buf
  | digest | codestr | cand | secret | key
  deriving DecidableEq, Repr

/-- The 32-bit words of the register map (10_state R21): the named registers, and the words of the byte buffers. -/
inductive RegName
  | id | ctrl | cfg | cmd | status | errinfo | seclen | keylen | candlen
  | offset | trunc | bincode | code
  | timeLo | timeHi | tsliceLo | tsliceHi | counterLo | counterHi | discLo | discHi
  | matchctrLo | matchctrHi
  /-- Word `k` of a buffer: its bytes 4k to 4k+3 (20_memory R72). -/
  | bufWord (b : Buf) (k : Nat)
  deriving DecidableEq, Repr

/-- Access types of the register map (10_state R22). CTRL and STATUS have rules of their own (R24, R28). -/
inductive Access
  | rw | ro | wo | mixed
  deriving DecidableEq, Repr

/-- The error codes a command can report (60_exceptions R220). Codes 7 to 15 are never produced, so they are no
values of this type. -/
inductive ErrCode
  | ok | invalidSecretLength | invalidSecretEncoding | clockUnavailable
  | invalidDigits | invalidKeyLength | illegalCommand
  deriving DecidableEq, Repr

/-- `raise Error(code, info)` (00_scope R9): the error code and the ERRINFO value of a command that fails. -/
structure CmdError where
  code : ErrCode
  info : Word
  deriving DecidableEq, Repr

/-- One level of the wall-clock input port: wc_valid and wc_seconds (10_state R55, 43_totp R189). -/
structure ClockSample where
  valid : Bool
  seconds : DWord
  deriving DecidableEq, Repr

/-- The registers and buffers of the map of 10_state R21 that hold something, each in one place. ID is a constant and
CMD holds no value (R23, R27); STATUS.BUSY is the phase (R56). -/
structure Regs where
  /-- CTRL.IE, R24. -/
  ie : Bool
  /-- CFG.DIGITS, R25. -/
  digits : BitVec 5
  /-- CFG.LOCK, R26. -/
  lock : Bool
  /-- STATUS.DONE, R30. -/
  done : Bool
  /-- STATUS.MATCH, R31. -/
  matched : Bool
  /-- STATUS.WERR, R32. -/
  werr : Bool
  /-- STATUS.ERR, R33. -/
  err : ErrCode
  /-- ERRINFO, R34. -/
  errinfo : Word
  /-- SECLEN, R35. -/
  seclen : BitVec 8
  /-- KEYLEN, R36. -/
  keylen : BitVec 7
  /-- CANDLEN, R37. -/
  candlen : BitVec 8
  /-- OFFSET, R38. -/
  offset : BitVec 4
  /-- TRUNC, R39. -/
  trunc : Word
  /-- BINCODE, R40. -/
  bincode : BitVec 31
  /-- CODE, R41. -/
  code : BitVec 31
  /-- TIME, R42. -/
  timeLo : Word
  timeHi : Word
  /-- TSLICE, R43. -/
  tsliceLo : Word
  tsliceHi : Word
  /-- COUNTER, R44. -/
  counterLo : Word
  counterHi : Word
  /-- DISC, R45. -/
  discLo : Word
  discHi : Word
  /-- MATCHCTR, R46. -/
  matchctrLo : Word
  matchctrHi : Word
  /-- DIGEST, CODESTR, CAND, SECRET and KEY, R47 to R51. -/
  mem : Memory
  deriving DecidableEq, Repr

/-- The engine phase (10_state R56): IDLE, or PENDING with the decoded command, the snapshot of the registers and the
clock sample, all three taken at issue (60_exceptions R235). -/
inductive Phase
  | idle
  | pending (op : Instr) (snap : Regs) (wc : ClockSample)
  deriving DecidableEq, Repr

/-- What the host does next: one transaction (30_encoding R107), or a wait on the interrupt line (20_memory R81, R85). -/
inductive HostOp
  /-- `rd OFF`: one bus read. -/
  | rd (off : Addr)
  /-- `wr OFF, V`: one bus write. -/
  | wr (off : Addr) (v : Word)
  /-- `poll OFF, MASK, V`: reads of OFF until `(rdata & MASK) = V`. -/
  | poll (off : Addr) (mask v : Word)
  /-- Wait for irq = 1 (R81, R85 row "wait"): no transaction on the bus. -/
  | waitIrq
  deriving DecidableEq, Repr

/-- Who moves next in the one total order of events (20_memory R79, 60_exceptions R241). -/
inductive Turn
  /-- The host performs its next action. -/
  | host
  /-- The engine completes the pending command, if there is one. -/
  | engine
  /-- The wall-clock port takes a new level. -/
  | clock (wc : ClockSample)
  /-- The rst_n pin takes a level. -/
  | resetPin (level : Bool)
  deriving DecidableEq, Repr

/-- The response of a bus transaction (20_memory R70): `error` is the ERROR response, otherwise OKAY. -/
inductive BusResponse
  | read (error : Bool) (rdata : Word)
  | write (error : Bool)
  deriving DecidableEq, Repr

/-- The machine: the block (registers, hidden phase, ports; 10_state R20) and its environment as data. -/
structure State where
  /-- The register map, R21. -/
  regs : Regs
  /-- The engine phase, R56. -/
  phase : Phase
  /-- The rst_n port, R55: false while hard reset is asserted. -/
  rstN : Bool
  /-- The wall-clock port's present level, R55. -/
  wc : ClockSample
  /-- The bus port's last response, R55; none before the first transaction. -/
  response : Option BusResponse
  /-- The host agent: the actions it has still to perform (00_scope R7, 30_encoding R107, 20_memory R85). The model's own
  field. -/
  program : List HostOp
  /-- The order of the events to come (20_memory R79). The model's own field. -/
  turns : List Turn
  deriving DecidableEq, Repr

/-- Why the machine stops with a fault: never. The block has no trap and no stuck state (60_exceptions R228,
93_implementation_defined "stuck"), and every error of a command or of the bus is a value (R224, R225). -/
inductive Fault
  deriving DecidableEq, Repr

/-- Why a step has no meaning in the model. -/
inductive Refusal
  /-- Raised by exec for an instruction that has no meaning yet; safe (the model stops). No arm uses it. -/
  | notModelled (mnemonic : String)
  /-- Raised by the host's turn when it would perform a transaction while rst_n = 0: "Bus transactions while
  rst_n = 0 are unmodelled" (70_reset R250, U20); safe (the model stops). -/
  | busDuringReset
  deriving DecidableEq, Repr

/-- The reset value of every register and buffer: the reset column of 10_state R21 (R65, 70_reset R250). -/
def Regs.reset : Regs where
  ie := false
  digits := 6
  lock := false
  done := false
  matched := false
  werr := false
  err := .ok
  errinfo := 0
  seclen := 0
  keylen := 0
  candlen := 0
  offset := 0
  trunc := 0
  bincode := 0
  code := 0
  timeLo := 0
  timeHi := 0
  tsliceLo := 0
  tsliceHi := 0
  counterLo := 0
  counterHi := 0
  discLo := 0
  discHi := 0
  matchctrLo := 0
  matchctrHi := 0
  mem := []

/-- The machine at the moment rst_n rises (70_reset R250, R251). The clock port, the bus response and the environment's
own fields have no reset value in the spec: DESIGN CHOICE, log entries 1 to 3. -/
def State.reset : State where
  regs := Regs.reset
  phase := .idle
  rstN := true
  wc := ⟨false, 0⟩
  response := none
  program := []
  turns := []

end Sys2Proof.Machine
end

