-- ==== Sys2Proof/Machine/Flags.lean ====
section
/-! DEFINITION. The STATUS flags: how the word reads, what each event does to them (10_state R28 to R33, R60), and the
error codes (60_exceptions R220). -/

namespace Sys2Proof.Machine

/-- The number of an error code in STATUS bits 11:8 (60_exceptions R220). -/
def ErrCode.bits : ErrCode → BitVec 4
  | .ok => 0
  | .invalidSecretLength => 1
  | .invalidSecretEncoding => 2
  | .clockUnavailable => 3
  | .invalidDigits => 4
  | .invalidKeyLength => 5
  | .illegalCommand => 6

/-- Whether a command is pending; STATUS.BUSY is 1 exactly then (10_state R29, R56). -/
def Phase.busy : Phase → Bool
  | .idle => false
  | .pending _ _ _ => true

/-- STATUS.BUSY (10_state R29). -/
def State.busy (s : State) : Bool := s.phase.busy

/-- The word a read of STATUS returns (10_state R28). -/
def statusWord (r : Regs) (busy : Bool) : Word :=
  0#20 ++ r.err.bits ++ 0#4 ++ BitVec.ofBool r.werr ++ BitVec.ofBool r.matched ++ BitVec.ofBool r.done
    ++ BitVec.ofBool busy

/-- A STATUS write clears the W1C bits written as 1: DONE (bit 1) and WERR (bit 3) (10_state R28, R60). -/
def Regs.clearStatus (r : Regs) (v : Word) : Regs :=
  { r with done := r.done && !bitOf v 1, werr := r.werr && !bitOf v 3 }

/-- The flags at command issue: DONE <- 0, the others unchanged (10_state R60, 60_exceptions R235). -/
def Regs.flagsAtIssue (r : Regs) : Regs := { r with done := false }

/-- The flags at an error completion (10_state R60, 60_exceptions R224, R236). -/
def Regs.flagsAtError (r : Regs) (e : CmdError) : Regs :=
  { r with done := true, matched := false, err := e.code, errinfo := e.info }

/-- The flags at a successful completion; `m` is the match of a VERIFY and false for every other command
(10_state R60, 60_exceptions R236). -/
def Regs.flagsAtSuccess (r : Regs) (m : Bool) : Regs :=
  { r with done := true, matched := m, err := .ok, errinfo := 0 }

/-- The flags when a write is ignored because BUSY = 1: WERR <- 1 (20_memory R80). -/
def Regs.flagsAtIgnoredWrite (r : Regs) : Regs := { r with werr := true }

/-- The level interrupt output `irq = CTRL.IE & STATUS.DONE` (60_exceptions R240). -/
def State.irq (s : State) : Bool := s.regs.ie && s.regs.done

end Sys2Proof.Machine
end

