-- ==== Sys2Proof/Machine/Ops.lean ====
section
/-! DEFINITION. The named operations over memory and registers: byte buffers, reset, issue, and the completion of a
command, which is also how an error is taken (60_exceptions R224, R228, R235, R236). -/

namespace Sys2Proof.Machine

/-- The byte at an offset; 0x00 where nothing is listed (10_state R21, reset column). -/
def Memory.read : Memory → Nat → Byte
  | [], _ => 0
  | (k, x) :: m, a => if k = a then x else Memory.read m a

/-- Store a byte, keeping the canonical form: a 0x00 removes the entry. -/
def Memory.write : Memory → Nat → Byte → Memory
  | [], a, b => if b = 0 then [] else [(a, b)]
  | (k, x) :: m, a, b =>
    if a < k then (if b = 0 then (k, x) :: m else (a, b) :: (k, x) :: m)
    else if a = k then (if b = 0 then m else (a, b) :: m)
    else (k, x) :: Memory.write m a b

/-- `n` bytes from an offset on, lowest offset first. -/
def Memory.readBytes (m : Memory) : Nat → Nat → List Byte
  | _, 0 => []
  | a, n + 1 => m.read a :: Memory.readBytes m (a + 1) n

/-- Store bytes from an offset on, the first at the offset. -/
def Memory.writeBytes : Memory → Nat → List Byte → Memory
  | m, _, [] => m
  | m, a, b :: bs => Memory.writeBytes (m.write a b) (a + 1) bs

/-- Canonical from offset `lo` on: offsets rise strictly and no entry is 0x00. -/
def Memory.wfFrom : Nat → Memory → Bool
  | _, [] => true
  | lo, (k, x) :: m => decide (lo ≤ k) && x != 0 && Memory.wfFrom (k + 1) m

/-- The canonical form of a memory: equal memories are then equal lists. -/
def Memory.wf (m : Memory) : Bool := m.wfFrom 0

/-- The offset of byte 0 of a buffer (10_state R21, 20_memory R72). -/
def Buf.base : Buf → Nat
  | .digest => 0x080
  | .codestr => 0x0A0
  | .cand => 0x0B0
  | .secret => 0x100
  | .key => 0x180

/-- The size of a buffer in bytes (10_state R21). -/
def Buf.size : Buf → Nat
  | .digest => 20
  | .codestr => 12
  | .cand => 12
  | .secret => 128
  | .key => 80

/-- The first `n` bytes of a buffer: `NAME[0..n)` (00_scope R9). -/
def Regs.bytes (r : Regs) (b : Buf) (n : Nat) : List Byte := r.mem.readBytes b.base n

/-- The results of dynamic truncation: OFFSET, TRUNC, BINCODE, CODE and the 12 bytes of CODESTR
(42_truncation_hotp R165). -/
structure TruncResult where
  offset : BitVec 4
  trunc : Word
  bincode : BitVec 31
  code : BitVec 31
  str : List Byte
  deriving DecidableEq, Repr

/-- What a command commits when it ends without error (10_state R62, column "writes on success"); `none` leaves the
register or buffer unchanged. `matched` is STATUS.MATCH. -/
structure Commit where
  keylen : Option (BitVec 7) := none
  key : Option (List Byte) := none
  counter : Option DWord := none
  matchctr : Option DWord := none
  digest : Option (List Byte) := none
  code : Option TruncResult := none
  matched : Bool := false
  deriving DecidableEq, Repr

/-- The outcome of a command's run: an error, or its commits (60_exceptions R236). -/
abbrev RunOutcome := Except CmdError Commit

/-- Store a commit's bytes at byte 0 of a buffer; nothing where the command does not write it. -/
def Memory.writeOption (m : Memory) (b : Buf) : Option (List Byte) → Memory
  | none => m
  | some bs => m.writeBytes b.base bs

/-- All commits of one command, together (00_scope R10, 20_memory R76); a 64-bit value goes to both registers of its
pair (10_state R52). -/
def Regs.commit (r : Regs) (c : Commit) : Regs :=
  { r with
    keylen := c.keylen.getD r.keylen
    counterLo := (c.counter.map loHalf).getD r.counterLo
    counterHi := (c.counter.map hiHalf).getD r.counterHi
    matchctrLo := (c.matchctr.map loHalf).getD r.matchctrLo
    matchctrHi := (c.matchctr.map hiHalf).getD r.matchctrHi
    offset := (c.code.map TruncResult.offset).getD r.offset
    trunc := (c.code.map TruncResult.trunc).getD r.trunc
    bincode := (c.code.map TruncResult.bincode).getD r.bincode
    code := (c.code.map TruncResult.code).getD r.code
    mem := ((r.mem.writeOption .key c.key).writeOption .digest c.digest).writeOption .codestr
      (c.code.map TruncResult.str) }

/-- The registers after a completion (60_exceptions R236). This is also how an error is taken: ERR and ERRINFO are
saved, STATUS changes, nothing else does (R224, R228). -/
def Regs.complete (r : Regs) : RunOutcome → Regs
  | .error e => r.flagsAtError e
  | .ok c => (r.commit c).flagsAtSuccess c.matched

/-- The completion step (60_exceptions R236): the outcome is committed, BUSY <- 0, DONE <- 1, phase <- IDLE. -/
def State.complete (s : State) (o : RunOutcome) : State :=
  { s with regs := s.regs.complete o, phase := .idle }

/-- What the command reads (60_exceptions R235, 10_state R62): the snapshot of a pending command. Where no command is
pending, the registers as they stand, which a snapshot taken now would hold; no step comes there (log entry 5). -/
def State.snapshot (s : State) : Regs :=
  match s.phase with
  | .pending _ snap _ => snap
  | .idle => s.regs

/-- The clock sample of the pending command (43_totp R189); where none is pending, the port's level (log entry 5). -/
def State.sample (s : State) : ClockSample :=
  match s.phase with
  | .pending _ _ wc => wc
  | .idle => s.wc

/-- Issue of the command word `w` (60_exceptions R235): decode, snapshot, clock sample, BUSY <- 1, DONE <- 0. -/
def State.issue (s : State) (w : Word) : State :=
  { s with regs := s.regs.flagsAtIssue, phase := .pending (decodeWord w) s.regs s.wc }

/-- The state change of a reset, hard or soft (70_reset R250, R252): every register at its reset value, the phase IDLE,
a pending command discarded. The ports and the environment are not the block's to change. -/
def State.blockReset (s : State) : State := { s with regs := Regs.reset, phase := .idle }

/-- Record the response of a transaction on the bus port (20_memory R70). -/
def State.respond (s : State) (r : BusResponse) : State := { s with response := some r }

/-- Replace the registers. -/
def State.setRegs (s : State) (r : Regs) : State := { s with regs := r }

end Sys2Proof.Machine
end

