-- ==== Sys2Proof/Machine/Operands.lean ====
section
/-! DEFINITION. Operand assembly (30_encoding R105): every operand of a command, taken from a snapshot. -/

namespace Sys2Proof.Machine

/-- COUNTER_HI ‖ COUNTER_LO (10_state R44). -/
def Regs.counter (r : Regs) : DWord := pair r.counterHi r.counterLo

/-- TIME_HI ‖ TIME_LO (10_state R42). -/
def Regs.time (r : Regs) : DWord := pair r.timeHi r.timeLo

/-- TSLICE_HI ‖ TSLICE_LO (10_state R43). -/
def Regs.tslice (r : Regs) : DWord := pair r.tsliceHi r.tsliceLo

/-- DISC_HI ‖ DISC_LO (10_state R45). -/
def Regs.disc (r : Regs) : DWord := pair r.discHi r.discLo

/-- MATCHCTR_HI ‖ MATCHCTR_LO (10_state R46). -/
def Regs.matchctr (r : Regs) : DWord := pair r.matchctrHi r.matchctrLo

/-- CFG.DIGITS as a number (10_state R25). -/
def Regs.digitCount (r : Regs) : Nat := r.digits.toNat

/-- SECRET[0..SECLEN), the secret text (10_state R50). Used only when 16 <= SECLEN <= 128. -/
def Regs.secretText (r : Regs) : List Byte := r.bytes .secret r.seclen.toNat

/-- KEY[0..KEYLEN), the key (10_state R51). Used only when KEYLEN <= 80. -/
def Regs.keyBytes (r : Regs) : List Byte := r.bytes .key r.keylen.toNat

/-- CAND[0..n), the candidate bytes that are compared (10_state R49, 44_verify R199). -/
def Regs.candidate (r : Regs) (n : Nat) : List Byte := r.bytes .cand n

/-- DIGEST[0..20) (10_state R47). -/
def Regs.digestBytes (r : Regs) : List Byte := r.bytes .digest 20

/-- The digit count is legal (10_state R25, 60_exceptions R220 code 4). -/
def Regs.digitsOk (r : Regs) : Bool := decide (minDigits ≤ r.digitCount) && decide (r.digitCount ≤ maxDigits)

/-- `raise Error(InvalidDigits, n)` (60_exceptions R221 code 4). -/
def digitsError (r : Regs) : CmdError := ⟨.invalidDigits, r.digits.setWidth 32⟩

/-- KEYLEN fits the KEY buffer (41_hmac_sha1 R150). -/
def Regs.keylenOk (r : Regs) : Bool := decide (r.keylen.toNat ≤ maxKey)

/-- `raise Error(InvalidKeyLength, KEYLEN)` (60_exceptions R221 code 5). -/
def keylenError (r : Regs) : CmdError := ⟨.invalidKeyLength, r.keylen.setWidth 32⟩

end Sys2Proof.Machine
end

