-- ==== Sys2Proof/Machine/Bus.lean ====
section
/-! DEFINITION. The register bus: the register map, reads, writes and responses (10_state R21 to R34, 20_memory R70 to
R80), and the host's transactions (30_encoding R107, R108). -/

namespace Sys2Proof.Machine

/-- The offset of a word of the register map (10_state R21, 20_memory R72). -/
def RegName.offsetOf : RegName → Nat
  | .id => 0x000
  | .ctrl => 0x004
  | .cfg => 0x008
  | .cmd => 0x00C
  | .status => 0x010
  | .errinfo => 0x014
  | .seclen => 0x018
  | .keylen => 0x01C
  | .candlen => 0x020
  | .offset => 0x024
  | .trunc => 0x028
  | .bincode => 0x02C
  | .code => 0x030
  | .timeLo => 0x040
  | .timeHi => 0x044
  | .tsliceLo => 0x048
  | .tsliceHi => 0x04C
  | .counterLo => 0x050
  | .counterHi => 0x054
  | .discLo => 0x058
  | .discHi => 0x05C
  | .matchctrLo => 0x060
  | .matchctrHi => 0x064
  | .bufWord b k => b.base + 4 * k

/-- The access type of a word of the register map (10_state R21, R22). -/
def RegName.access : RegName → Access
  | .id | .errinfo | .offset | .trunc | .bincode | .code | .matchctrLo | .matchctrHi => .ro
  | .ctrl | .status => .mixed
  | .cmd => .wo
  | .cfg | .seclen | .keylen | .candlen => .rw
  | .timeLo | .timeHi | .tsliceLo | .tsliceHi | .counterLo | .counterHi | .discLo | .discHi => .rw
  | .bufWord .codestr _ => .ro
  | .bufWord .digest _ | .bufWord .cand _ | .bufWord .secret _ | .bufWord .key _ => .rw

/-- The word of a buffer that an offset inside it names; none outside (20_memory R72). -/
def bufWordAt (b : Buf) (a : Nat) : Option RegName :=
  if b.base ≤ a ∧ a < b.base + b.size then some (.bufWord b ((a - b.base) / 4)) else none

/-- The named registers of the map, in its order (10_state R21). -/
def namedRegs : List RegName :=
  [.id, .ctrl, .cfg, .cmd, .status, .errinfo, .seclen, .keylen, .candlen, .offset, .trunc, .bincode, .code,
   .timeLo, .timeHi, .tsliceLo, .tsliceHi, .counterLo, .counterHi, .discLo, .discHi, .matchctrLo, .matchctrHi]

/-- What an aligned offset names: a row of the register map, or nothing where it is unmapped (10_state R21,
20_memory R74). -/
def regAt (a : Nat) : Option RegName :=
  (namedRegs.find? fun n => n.offsetOf == a) <|> bufWordAt .digest a <|> bufWordAt .codestr a <|> bufWordAt .cand a
    <|> bufWordAt .secret a <|> bufWordAt .key a

/-- The register an offset of a transaction reaches: none when the offset is misaligned (20_memory R71) or unmapped
(R74). -/
def target (off : Addr) : Option RegName := if off.toNat % 4 = 0 then regAt off.toNat else none

/-- The word of a buffer, in its lanes (20_memory R72). -/
def Regs.bufWord (r : Regs) (b : Buf) (k : Nat) : Word :=
  let a := b.base + 4 * k
  laneWord (r.mem.read a) (r.mem.read (a + 1)) (r.mem.read (a + 2)) (r.mem.read (a + 3))

/-- What a read of a register returns: its fields, 0 in every other bit (10_state R22 to R52). -/
def State.readReg (s : State) : RegName → Word
  | .id => idValue
  | .ctrl => 0#31 ++ BitVec.ofBool s.regs.ie
  | .cfg => BitVec.ofBool s.regs.lock ++ 0#26 ++ s.regs.digits
  | .cmd => 0
  | .status => statusWord s.regs s.busy
  | .errinfo => s.regs.errinfo
  | .seclen => s.regs.seclen.setWidth 32
  | .keylen => s.regs.keylen.setWidth 32
  | .candlen => s.regs.candlen.setWidth 32
  | .offset => s.regs.offset.setWidth 32
  | .trunc => s.regs.trunc
  | .bincode => s.regs.bincode.setWidth 32
  | .code => s.regs.code.setWidth 32
  | .timeLo => s.regs.timeLo
  | .timeHi => s.regs.timeHi
  | .tsliceLo => s.regs.tsliceLo
  | .tsliceHi => s.regs.tsliceHi
  | .counterLo => s.regs.counterLo
  | .counterHi => s.regs.counterHi
  | .discLo => s.regs.discLo
  | .discHi => s.regs.discHi
  | .matchctrLo => s.regs.matchctrLo
  | .matchctrHi => s.regs.matchctrHi
  | .bufWord b k => s.regs.bufWord b k

/-- The response of a read (20_memory R70, R71, R74): misaligned and unmapped reads return 0 with ERROR. -/
def State.readResponse (s : State) (off : Addr) : BusResponse :=
  match target off with
  | some r => .read false (s.readReg r)
  | none => .read true 0

/-- A CFG write (10_state R26): dropped while LOCK = 1. -/
def Regs.writeCfg (r : Regs) (v : Word) : Regs :=
  if r.lock then r else { r with digits := v.extractLsb' 0 5, lock := bitOf v 31 }

/-- The write of an RW register or buffer word: the written bits of its fields are stored (10_state R22). The registers
that are not RW keep their value here; their own rules are in `State.writeReg`. -/
def Regs.store (r : Regs) (n : RegName) (v : Word) : Regs :=
  match n with
  | .cfg => r.writeCfg v
  | .seclen => { r with seclen := v.extractLsb' 0 8 }
  | .keylen => { r with keylen := v.extractLsb' 0 7 }
  | .candlen => { r with candlen := v.extractLsb' 0 8 }
  | .timeLo => { r with timeLo := v }
  | .timeHi => { r with timeHi := v }
  | .tsliceLo => { r with tsliceLo := v }
  | .tsliceHi => { r with tsliceHi := v }
  | .counterLo => { r with counterLo := v }
  | .counterHi => { r with counterHi := v }
  | .discLo => { r with discLo := v }
  | .discHi => { r with discHi := v }
  | .bufWord b k => { r with mem := r.mem.writeBytes (b.base + 4 * k) (laneBytes v) }
  | .id | .ctrl | .cmd | .status | .errinfo | .offset | .trunc | .bincode | .code | .matchctrLo | .matchctrHi => r

/-- A CTRL write (10_state R24, 70_reset R252): SRST (bit 1) resets the block and wins over IE; otherwise IE is
bit 0. -/
def State.writeCtrl (s : State) (v : Word) : State :=
  if bitOf v 1 then s.blockReset else s.setRegs { s.regs with ie := bitOf v 0 }

/-- A STATUS write (10_state R28). -/
def State.writeStatus (s : State) (v : Word) : State := s.setRegs (s.regs.clearStatus v)

/-- A write of any other mapped register (10_state R22, R27, 20_memory R80): ignored with WERR <- 1 while BUSY;
otherwise CMD issues, RW registers store, RO registers ignore it. DESIGN CHOICE (log entry 16): BUSY is looked at before
CFG.LOCK, so a CFG write with BUSY = 1 and LOCK = 1 sets WERR, as R80 says, where R26 says that a locked CFG write sets
no flag. -/
def State.writePlain (s : State) (n : RegName) (v : Word) : State :=
  if s.busy then s.setRegs s.regs.flagsAtIgnoredWrite
  else
    match n.access with
    | .wo => s.issue v
    | .rw => s.setRegs (s.regs.store n v)
    | .ro | .mixed => s

/-- A write of a mapped register (10_state R22): CTRL and STATUS act at any time, the others through `writePlain`. -/
def State.writeReg (s : State) (n : RegName) (v : Word) : State :=
  match n with
  | .ctrl => s.writeCtrl v
  | .status => s.writeStatus v
  | n => s.writePlain n v

/-- A bus read: no side effect but the response (20_memory R75). -/
def State.busRead (s : State) (off : Addr) : State := s.respond (s.readResponse off)

/-- A bus write (20_memory R70): a misaligned or unmapped one changes nothing and gets ERROR (R71, R74). -/
def State.busWrite (s : State) (off : Addr) (v : Word) : State :=
  match target off with
  | some n => (s.writeReg n v).respond (.write false)
  | none => s.respond (.write true)

/-- The read data of the last read is `v` under `mask`: the end of a poll (30_encoding R107). -/
def pollDone (r : BusResponse) (mask v : Word) : Bool :=
  match r with
  | .read _ rdata => rdata &&& mask == v
  | .write _ => false

/-- Whether the host uses the bus for it: all but the wait on irq (20_memory R85). -/
def HostOp.onBus : HostOp → Bool
  | .rd _ | .wr _ _ | .poll _ _ _ => true
  | .waitIrq => false

/-- One action of the host, from a state whose program no longer holds it (30_encoding R107). A poll whose read does
not yet show the value stays at the head of the program, so the host reads again at its next turn; a wait on irq stays
there while irq = 0 (20_memory R81, R85). DESIGN CHOICE, log entry 11. -/
def State.hostOp (s : State) : HostOp → State
  | .rd off => s.busRead off
  | .wr off v => s.busWrite off v
  | .poll off mask v =>
    if pollDone (s.readResponse off) mask v then s.busRead off
    else { s.busRead off with program := .poll off mask v :: s.program }
  | .waitIrq => if s.irq then s else { s with program := .waitIrq :: s.program }

/-- The host's turn (20_memory R79): its next action, or nothing when it has none left. A transaction while rst_n = 0 is
outside the model (70_reset R250, U20). -/
def State.hostTurn (s : State) : Host.Outcome State Fault Refusal :=
  match s.program with
  | [] => .next s
  | op :: rest =>
    if s.rstN || !op.onBus then .next (State.hostOp { s with program := rest } op) else .refused .busDuringReset

/-- The clock port takes a new level (43_totp R189). -/
def State.clockTurn (s : State) (wc : ClockSample) : State := { s with wc := wc }

/-- The rst_n pin takes a level (70_reset R250): while it is 0 and at the moment it rises the block is at reset; a pin
that stays at 1 does nothing. -/
def State.resetPinTurn (s : State) (level : Bool) : State :=
  if level && s.rstN then s else { s.blockReset with rstN := level }

end Sys2Proof.Machine
end

