-- ==== Sys2Proof/Machine/Control.lean ====
section
/-! DEFINITION. The commands NOP and KEYCLR (45_control R210, R211), and the reserved and illegal words
(30_encoding R103). -/

namespace Sys2Proof.Machine

/-- NOP on any snapshot: no commit (R210). -/
def runNop : RunOutcome := .ok {}

/-- KEYCLR on any snapshot: KEY and KEYLEN <- 0 (R211). -/
def runKeyclr : RunOutcome := .ok { keylen := some 0, key := some (List.replicate maxKey 0) }

/-- The completion of an ILLEGAL word: IllegalCommand, ERRINFO = the word (30_encoding R101, 60_exceptions R221). -/
def runIllegal (w : Word) : RunOutcome := .error ⟨.illegalCommand, w⟩

/-- NOP (OP 0x0, R210). -/
def execNop (s : State) : Host.Outcome State Fault Refusal := .next (s.complete runNop)

/-- KEYCLR (OP 0x8, R211). -/
def execKeyclr (s : State) : Host.Outcome State Fault Refusal := .next (s.complete runKeyclr)

/-- The reserved word 0x9 (30_encoding R103). -/
def execReserved9 (s : State) : Host.Outcome State Fault Refusal :=
  .next (s.complete (runIllegal (encode .reserved9)))

/-- The reserved words 0xA and 0xB (30_encoding R103). -/
def execReservedAB (low : BitVec 1) (s : State) : Host.Outcome State Fault Refusal :=
  .next (s.complete (runIllegal (encode (.reservedAB low))))

/-- The reserved words 0xC to 0xF (30_encoding R103). -/
def execReservedCF (low : BitVec 2) (s : State) : Host.Outcome State Fault Refusal :=
  .next (s.complete (runIllegal (encode (.reservedCF low))))

/-- A word with RSV != 0 (30_encoding R103). -/
def execIllegalRsv (rsv : BitVec 28) (op : BitVec 4) (s : State) : Host.Outcome State Fault Refusal :=
  .next (s.complete (runIllegal (encode (.illegalRsv rsv op))))

end Sys2Proof.Machine
end

