-- ==== Sys2Proof/Machine/Base32.lean ====
section
/-! DEFINITION. The base32 decoder and the command B32DEC (40_base32 R120 to R131). -/

namespace Sys2Proof.Machine

/-- `val(b)`: the 5-bit value of a data symbol, none for any other byte (R120). -/
def symbolValue (b : Byte) : Option Nat :=
  let n := b.toNat
  if 0x41 ≤ n ∧ n ≤ 0x5A then some (n - 0x41)
  else if 0x32 ≤ n ∧ n ≤ 0x37 then some (n - 0x32 + 26)
  else none

/-- `isPad(b)`: the byte '=' (R120). -/
def isPad (b : Byte) : Bool := b == 0x3D

/-- `inAlphabet(b)`: a data symbol or '=' (R120). -/
def inAlphabet (b : Byte) : Bool := (symbolValue b).isSome || isPad b

/-- `p`, the length of the longest run of '=' at the end of the text (R124). -/
def padCount (text : List Byte) : Nat := (text.reverse.takeWhile isPad).length

/-- `B` as a number: the 5-bit values joined, the first in the most significant bits (R126). -/
def symbolBits (data : List Byte) : Nat :=
  data.foldl (fun acc b => acc * 32 + (symbolValue b).getD 0) 0

/-- `K = floor(5n / 8)`, the key bytes that n data characters give (R126). -/
def keyCount (n : Nat) : Nat := 5 * n / 8

/-- `r = 5n - 8K`, the leftover bits (R126). -/
def leftoverCount (n : Nat) : Nat := 5 * n - 8 * keyCount n

/-- The key bytes: byte j is bits 8j to 8j+7 of B counted from its most significant bit (R126). -/
def unpackKey (data : List Byte) : List Byte :=
  let n := data.length
  (List.range (keyCount n)).map fun j => BitVec.ofNat 8 (symbolBits data >>> (5 * n - 8 - 8 * j))

/-- InvalidSecretEncoding with a sub-cause and a position (60_exceptions R221 code 2: `sub << 8 | pos`). -/
def encodingError (sub pos : Nat) : CmdError :=
  ⟨.invalidSecretEncoding, BitVec.ofNat 32 (sub <<< 8 ||| pos)⟩

/-- The data characters: the text without its final pad run (R124). -/
def dataChars (text : List Byte) : List Byte := text.take (text.length - padCount text)

/-- `p in {0, 1, 3, 4, 6}` (R125). -/
def padCountOk (p : Nat) : Bool := p == 0 || p == 1 || p == 3 || p == 4 || p == 6

/-- The leftover bits of the data characters, `B[r-1:0]` (R127). -/
def leftoverBits (data : List Byte) : Nat := symbolBits data % 2 ^ leftoverCount data.length

/-- The checks of a text of legal length and the key it gives, in the order of R122 to R127. -/
def decodeText (text : List Byte) : Except CmdError (List Byte) :=
  match text.findIdx? (fun b => !inAlphabet b) with
  | some i => .error (encodingError 1 i)
  | none =>
    if text.length % 8 ≠ 0 then .error (encodingError 2 text.length)
    else
      match (dataChars text).findIdx? isPad with
      | some i => .error (encodingError 3 i)
      | none =>
        if padCountOk (padCount text) = false then .error (encodingError 4 (padCount text))
        else if leftoverBits (dataChars text) ≠ 0 then .error (encodingError 5 ((dataChars text).length - 1))
        else .ok (unpackKey (dataChars text))

/-- `b32decode(SECLEN, SECRET)` on a snapshot (R129): the length bound first (R121), then the text. The secret is read
only below SECLEN, and only when the length is legal. -/
def b32decode (r : Regs) : Except CmdError (List Byte) :=
  if r.seclen.toNat < minSecret ∨ maxSecret < r.seclen.toNat then
    .error ⟨.invalidSecretLength, r.seclen.setWidth 32⟩
  else decodeText r.secretText

/-- The 80 bytes of KEY that hold a key: its bytes, then 0x00 (R130). -/
def keyImage (key : List Byte) : List Byte := key ++ List.replicate (maxKey - key.length) 0

/-- B32DEC on a snapshot (R130). -/
def runB32dec (r : Regs) : RunOutcome :=
  match b32decode r with
  | .error e => .error e
  | .ok key => .ok { keylen := some (BitVec.ofNat 7 key.length), key := some (keyImage key) }

/-- B32DEC (OP 0x1, R130). -/
def execB32dec (s : State) : Host.Outcome State Fault Refusal := .next (s.complete (runB32dec s.snapshot))

end Sys2Proof.Machine
end

