-- ==== Sys2Proof/Machine/HmacSha1.lean ====
section
/-! DEFINITION. SHA-1, HMAC-SHA1 and the command HMAC (41_hmac_sha1 R140 to R150). -/

namespace Sys2Proof.Machine

/-- The five words of a hash state, and the working variables a to e of the rounds (R143). -/
structure HashState where
  h0 : Word
  h1 : Word
  h2 : Word
  h3 : Word
  h4 : Word
  deriving DecidableEq, Repr

/-- The initial value (R144). -/
def sha1Init : HashState := ⟨0x67452301, 0xEFCDAB89, 0x98BADCFE, 0x10325476, 0xC3D2E1F0⟩

/-- `z`, the number of zero bytes of the padding of an m-byte message (R140). -/
def sha1Zeros (m : Nat) : Nat := (119 - m % 64) % 64

/-- `pad(M)` (R140). -/
def sha1Pad (msg : List Byte) : List Byte :=
  msg ++ [0x80] ++ List.replicate (sha1Zeros msg.length) 0 ++ be64 (BitVec.ofNat 64 (8 * msg.length))

/-- The first `n` big-endian words of a byte string (R141, `t = 0 .. 15`). -/
def beWords : Nat → List Byte → List Word
  | 0, _ => []
  | n + 1, bs => be32 (bs.getD 0 0) (bs.getD 1 0) (bs.getD 2 0) (bs.getD 3 0) :: beWords n (bs.drop 4)

/-- `W[t]` from the words before it, newest first: `ROTL_1(W[t-3] ^ W[t-8] ^ W[t-14] ^ W[t-16])` (R141). -/
def nextScheduleWord (newestFirst : List Word) : Word :=
  (newestFirst.getD 2 0 ^^^ newestFirst.getD 7 0 ^^^ newestFirst.getD 13 0 ^^^ newestFirst.getD 15 0).rotateLeft 1

/-- `n` further schedule words, newest first (R141). -/
def extendSchedule : Nat → List Word → List Word
  | 0, ws => ws
  | n + 1, ws => extendSchedule n (nextScheduleWord ws :: ws)

/-- The schedule `W[0..80)` of a 64-byte block (R141). -/
def schedule (blk : List Byte) : List Word := (extendSchedule 64 (beWords 16 blk).reverse).reverse

/-- `f_t(b, c, d)` (R142). -/
def roundFunction (t : Nat) (b c d : Word) : Word :=
  if t < 20 then (b &&& c) ^^^ (~~~b &&& d)
  else if t < 40 then b ^^^ c ^^^ d
  else if t < 60 then (b &&& c) ^^^ (b &&& d) ^^^ (c &&& d)
  else b ^^^ c ^^^ d

/-- `K_t` (R142). -/
def roundConstant (t : Nat) : Word :=
  if t < 20 then 0x5A827999
  else if t < 40 then 0x6ED9EBA1
  else if t < 60 then 0x8F1BBCDC
  else 0xCA62C1D6

/-- One round on (a, b, c, d, e) (R143). -/
def sha1Round (t : Nat) (w : Word) (h : HashState) : HashState where
  h0 := h.h0.rotateLeft 5 + roundFunction t h.h1 h.h2 h.h3 + h.h4 + roundConstant t + w
  h1 := h.h0
  h2 := h.h1.rotateLeft 30
  h3 := h.h2
  h4 := h.h3

/-- The rounds from number `t` on, one for each word of the list (R143). -/
def sha1Rounds : Nat → List Word → HashState → HashState
  | _, [], h => h
  | t, w :: ws, h => sha1Rounds (t + 1) ws (sha1Round t w h)

/-- The compression of one block (R143). -/
def compress (h : HashState) (blk : List Byte) : HashState :=
  let v := sha1Rounds 0 (schedule blk) h
  ⟨h.h0 + v.h0, h.h1 + v.h1, h.h2 + v.h2, h.h3 + v.h3, h.h4 + v.h4⟩

/-- The first `n` blocks of 64 bytes, in order (R141). -/
def sha1Blocks : Nat → List Byte → List (List Byte)
  | 0, _ => []
  | n + 1, bs => bs.take 64 :: sha1Blocks n (bs.drop 64)

/-- The digest bytes of a hash state (R144). -/
def hashBytes (h : HashState) : List Byte :=
  be32Bytes h.h0 ++ be32Bytes h.h1 ++ be32Bytes h.h2 ++ be32Bytes h.h3 ++ be32Bytes h.h4

/-- `SHA1(M)`, 20 bytes: the compressions of the padded message's blocks, in order (R140 to R144). Irreducible for the elaborator only, so that no proof runs it by accident on a
message that is not a literal. -/
@[irreducible] def sha1 (msg : List Byte) : List Byte :=
  let padded := sha1Pad msg
  hashBytes ((sha1Blocks (padded.length / 64) padded).foldl compress sha1Init)

/-- `K0`: the key, hashed first if longer than 64 bytes, with zeros to 64 bytes (R145, R147). -/
def hmacBlockKey (key : List Byte) : List Byte :=
  let k := if key.length > 64 then sha1 key else key
  k ++ List.replicate (64 - k.length) 0

/-- `HMAC_SHA1(key, msg)` (R145). -/
def hmacSha1 (key msg : List Byte) : List Byte :=
  let k0 := hmacBlockKey key
  sha1 (k0.map (· ^^^ 0x5C) ++ sha1 (k0.map (· ^^^ 0x36) ++ msg))

/-- HMAC on a snapshot (R150). -/
def runHmac (r : Regs) : RunOutcome :=
  if r.keylenOk then .ok { digest := some (hmacSha1 r.keyBytes (be64 r.counter)) } else .error (keylenError r)

/-- HMAC (OP 0x2, R150). -/
def execHmac (s : State) : Host.Outcome State Fault Refusal := .next (s.complete (runHmac s.snapshot))

end Sys2Proof.Machine
end

