-- ==== Sys2Proof/Machine/Truncation.lean ====
section
/-! DEFINITION. Dynamic truncation and the commands TRUNC and HOTP (42_truncation_hotp R160 to R167). -/

namespace Sys2Proof.Machine

/-- `offset = D[19] & 0x0F` (R160). -/
def truncOffset (d : List Byte) : BitVec 4 := (d.getD 19 0).extractLsb' 0 4

/-- The four digest bytes from the offset on, big-endian (R161). -/
def truncWord (d : List Byte) : Word :=
  let o := (truncOffset d).toNat
  be32 (d.getD o 0) (d.getD (o + 1) 0) (d.getD (o + 2) 0) (d.getD (o + 3) 0)

/-- `binCode = T & 0x7FFFFFFF`: bits 30:0 of the truncated word (R162). -/
def binCode (d : List Byte) : BitVec 31 := (truncWord d).extractLsb' 0 31

/-- `code = binCode mod 10^n` (R163). -/
def codeValue (d : List Byte) (n : Nat) : Nat := (binCode d).toNat % 10 ^ n

/-- `render(code, n)`: n ASCII digits, most significant first (R164). -/
def render (code n : Nat) : List Byte :=
  (List.range n).map fun i => BitVec.ofNat 8 (0x30 + code / 10 ^ (n - 1 - i) % 10)

/-- `dyntrunc(D, n)` (R165). -/
def dynTrunc (d : List Byte) (n : Nat) : TruncResult where
  offset := truncOffset d
  trunc := truncWord d
  bincode := binCode d
  code := BitVec.ofNat 31 (codeValue d n)
  str := render (codeValue d n) n ++ List.replicate (12 - n) 0

/-- TRUNC on a snapshot (R166). -/
def runTrunc (r : Regs) : RunOutcome :=
  if r.digitsOk then .ok { code := some (dynTrunc r.digestBytes r.digitCount) } else .error (digitsError r)

/-- HOTP on a snapshot: the digit count is checked before the key length (R167). -/
def runHotp (r : Regs) : RunOutcome :=
  if r.digitsOk then
    if r.keylenOk then
      let d := hmacSha1 r.keyBytes (be64 r.counter)
      .ok { digest := some d, code := some (dynTrunc d r.digitCount) }
    else .error (keylenError r)
  else .error (digitsError r)

/-- TRUNC (OP 0x3, R166). -/
def execTrunc (s : State) : Host.Outcome State Fault Refusal := .next (s.complete (runTrunc s.snapshot))

/-- HOTP (OP 0x4, R167). -/
def execHotp (s : State) : Host.Outcome State Fault Refusal := .next (s.complete (runHotp s.snapshot))

end Sys2Proof.Machine
end

