-- ==== Sys2Proof/Machine/Totp.lean ====
section
/-! DEFINITION. The time-counter divider, counter resolution, and the commands TDIV and GETCODE (43_totp R180 to
R190). -/

namespace Sys2Proof.Machine

/-- `counter_for_time(t) = floor(t / 30)` (R180, R182). -/
def counterForTime (t : DWord) : DWord := BitVec.ofNat 64 (t.toNat / stepSeconds)

/-- `resolve(tslice, wc)` (R184, R185, R186). -/
def resolve (tslice : DWord) (wc : ClockSample) : Except CmdError DWord :=
  if tslice ≠ 0 then .ok tslice
  else if wc.valid then .ok (counterForTime wc.seconds)
  else .error ⟨.clockUnavailable, 0⟩

/-- TDIV on a snapshot (R183). -/
def runTdiv (r : Regs) : RunOutcome := .ok { counter := some (counterForTime r.time) }

/-- GETCODE on a snapshot and its clock sample, its checks in the order of 60_exceptions R223 (R187). The decoded key
is a local value, never committed (10_state R58). -/
def runGetcode (r : Regs) (wc : ClockSample) : RunOutcome :=
  if r.digitsOk then
    match b32decode r with
    | .error e => .error e
    | .ok key =>
      match resolve r.tslice wc with
      | .error e => .error e
      | .ok c =>
        let d := hmacSha1 key (be64 c)
        .ok { counter := some c, digest := some d, code := some (dynTrunc d r.digitCount) }
  else .error (digitsError r)

/-- TDIV (OP 0x5, R183). -/
def execTdiv (s : State) : Host.Outcome State Fault Refusal := .next (s.complete (runTdiv s.snapshot))

/-- GETCODE (OP 0x6, R187). -/
def execGetcode (s : State) : Host.Outcome State Fault Refusal :=
  .next (s.complete (runGetcode s.snapshot s.sample))

end Sys2Proof.Machine
end

