-- ==== Sys2Proof/Machine/Verify.lean ====
section
/-! DEFINITION. The verification-window scanner and the command VERIFY (44_verify R195 to R203). -/

namespace Sys2Proof.Machine

/-- `lo = c ⊖ d`, saturating at 0 (R197). -/
def windowLo (c d : DWord) : Nat := c.toNat - d.toNat

/-- `hi = c ⊕ d`, saturating at 2^64 - 1 (R197). -/
def windowHi (c d : DWord) : Nat := min (c.toNat + d.toNat) maxCounter

/-- `slicecode(k, x, n)`: the code HOTP gives for counter x (R195, R198). -/
def sliceCode (key : List Byte) (x n : Nat) : List Byte :=
  render (codeValue (hmacSha1 key (be64 (BitVec.ofNat 64 x))) n) n

/-- The first of the `count` values from `lo` up that meets `p`: the ascending scan (R200). -/
def firstMatch (p : Nat → Bool) : Nat → Nat → Option Nat
  | _, 0 => none
  | lo, count + 1 => if p lo then some lo else firstMatch p (lo + 1) count

/-- The scan of the whole window lo to hi, both ends in it (R197, R199, R200). -/
def scanWindow (key : List Byte) (n : Nat) (cand : List Byte) (c d : DWord) : Option Nat :=
  firstMatch (fun x => sliceCode key x n == cand) (windowLo c d) (windowHi c d - windowLo c d + 1)

/-- VERIFY on a snapshot and its clock sample, its checks in the order of 60_exceptions R223 (R201). The length gate
(R196) comes after the secret and before the clock and is no error. -/
def runVerify (r : Regs) (wc : ClockSample) : RunOutcome :=
  if r.digitsOk then
    match b32decode r with
    | .error e => .error e
    | .ok key =>
      if r.candlen.toNat ≠ r.digitCount then .ok { matchctr := some 0, matched := false }
      else
        match resolve r.tslice wc with
        | .error e => .error e
        | .ok c =>
          let found := scanWindow key r.digitCount (r.candidate r.digitCount) c r.disc
          .ok { counter := some c, matchctr := some (BitVec.ofNat 64 (found.getD 0)), matched := found.isSome }
  else .error (digitsError r)

/-- VERIFY (OP 0x7, R201). -/
def execVerify (s : State) : Host.Outcome State Fault Refusal :=
  .next (s.complete (runVerify s.snapshot s.sample))

end Sys2Proof.Machine
end

