-- ==== Sys2Proof/Machine/Dispatch.lean ====
section
/-! DEFINITION. One arm per command: what the engine's completion step runs (60_exceptions R236). -/

namespace Sys2Proof.Machine

def exec (i : Instr) (s : State) : Host.Outcome State Fault Refusal :=
  match i with
  | .nop => Sys2Proof.Machine.execNop s
  | .b32dec => Sys2Proof.Machine.execB32dec s
  | .hmac => Sys2Proof.Machine.execHmac s
  | .trunc => Sys2Proof.Machine.execTrunc s
  | .hotp => Sys2Proof.Machine.execHotp s
  | .tdiv => Sys2Proof.Machine.execTdiv s
  | .getcode => Sys2Proof.Machine.execGetcode s
  | .verify => Sys2Proof.Machine.execVerify s
  | .keyclr => Sys2Proof.Machine.execKeyclr s
  | .reserved9 => Sys2Proof.Machine.execReserved9 s
  | .reservedAB low => Sys2Proof.Machine.execReservedAB low s
  | .reservedCF low => Sys2Proof.Machine.execReservedCF low s
  | .illegalRsv rsv op => Sys2Proof.Machine.execIllegalRsv rsv op s

end Sys2Proof.Machine
end

