-- ==== Sys2Proof/Machine/Engine.lean ====
section
/-! DEFINITION. The turns of the agents (00_scope R7, 20_memory R79, 60_exceptions R236, R241). -/

namespace Sys2Proof.Machine

/-- The engine's turn: the completion step of the pending command (R236); nothing when the engine is IDLE. -/
def State.engineTurn (s : State) : Host.Outcome State Fault Refusal :=
  match s.phase with
  | .idle => .next s
  | .pending op _ _ => exec op s

/-- One agent's turn. -/
def State.takeTurn (s : State) : Turn → Host.Outcome State Fault Refusal
  | .host => s.hostTurn
  | .engine => s.engineTurn
  | .clock wc => .next (s.clockTurn wc)
  | .resetPin level => .next (s.resetPinTurn level)

/-- Who moves next: the head of the list of turns; when the list is used up, the engine if a command is pending, which
is the fairness of 70_reset R262, otherwise the host (log entry 1). -/
def State.nextTurn (s : State) : Turn :=
  match s.turns with
  | [] => if s.busy then .engine else .host
  | t :: _ => t

/-- One event of the total order: the next turn, on the state with that turn taken from the list. -/
def State.nextEvent (s : State) : Host.Outcome State Fault Refusal :=
  State.takeTurn { s with turns := s.turns.tail } s.nextTurn

/-- The command word `w` issued and the engine to move next, so that the next event completes it: what the host's CMD
write leaves (R235), with the engine's turn put first (log entry 4). -/
def State.placeCommand (s : State) (w : Word) : State := { s.issue w with turns := .engine :: s.turns }

end Sys2Proof.Machine
end

