-- ==== Sys2Proof/Machine/Step.lean ====
section
/-! DEFINITION. One step of the machine: one event of the one total order (20_memory R79). -/

namespace Sys2Proof.Machine

/-- One event: a bus transaction, a completion, a change of the clock port or of the reset pin. -/
def step (s : State) : Host.Outcome State Fault Refusal := s.nextEvent

/-- The command of `nbits` bits `w` placed where the engine takes its next command: pending, with the snapshot of this
state, and the engine to move. A number that is no command word leaves the state as it is. -/
def State.withFetchWord (s : State) (nbits w : Nat) : State :=
  match decodeTableWord nbits w with
  | some i => s.placeCommand (encode i)
  | none => s

end Sys2Proof.Machine
end

