-- ==== Sys2Proof/Config.lean ====
section
/-! DEFINITION. What the platform fixes and the spec leaves OPEN (92_eei_decisions, "Two parameters are left OPEN").
The other parameter, T_CMD, is a real time that no rule uses (70_reset R262); the model has no time and no constant
for it (log entry 9). -/

namespace Sys2Proof

/-- OTPE_BASE: the base address of the 4 KiB window in the host's address space (20_memory R77). It has no body, so
no proof can rest on a value of it. -/
opaque Config.otpeBase : BitVec 32

end Sys2Proof
end

