-- ==== Sys2Proof/Machine/HostForms.lean ====
section
/-! DEFINITION. The host's pseudo-instructions and their expansions into transactions (30_encoding R107, R108), and the
address a host uses for an offset (20_memory R77). -/

namespace Sys2Proof.Machine

/-- The bus offset of a register name in a host program (R107: names stand for their offsets). -/
def offsetAddr (n : RegName) : Addr := BitVec.ofNat 12 n.offsetOf

/-- `cmd NAME`. -/
def hostCmd (i : Instr) : List HostOp := [.wr (offsetAddr .cmd) (encode i)]

/-- `wait`. -/
def hostWait : List HostOp := [.poll (offsetAddr .status) 1 0]

/-- The wait on the interrupt line (20_memory R81, R85); it is no form of R107. -/
def hostWaitIrq : List HostOp := [.waitIrq]

/-- `ack`: clears DONE and WERR. -/
def hostAck : List HostOp := [.wr (offsetAddr .status) 0x0000000A]

/-- `wr64 NAME, V`: NAME_LO, then NAME_HI. -/
def hostWr64 (lo hi : RegName) (v : DWord) : List HostOp := [.wr (offsetAddr lo) (loHalf v), .wr (offsetAddr hi) (hiHalf v)]

/-- Word k of a text packed in lanes, 0x00 in place of a byte past its end (R108, 20_memory R72). -/
def packWord (text : List Byte) (k : Nat) : Word :=
  laneWord (text.getD (4 * k) 0) (text.getD (4 * k + 1) 0) (text.getD (4 * k + 2) 0) (text.getD (4 * k + 3) 0)

/-- `wrbuf BUF, "text"`: ceil(len/4) writes. -/
def hostWrbuf (b : Buf) (text : List Byte) : List HostOp :=
  (List.range ((text.length + 3) / 4)).map fun k => .wr (offsetAddr (.bufWord b k)) (packWord text k)

/-- `rdbuf BUF, n`: ceil(n/4) reads. -/
def hostRdbuf (b : Buf) (n : Nat) : List HostOp := (List.range ((n + 3) / 4)).map fun k => .rd (offsetAddr (.bufWord b k))

/-- `srst`. -/
def hostSrst : List HostOp := [.wr (offsetAddr .ctrl) 0x00000002]

/-- The host address of an offset: OTPE_BASE + OFF (R107, 20_memory R77). -/
def hostAddress (o : Addr) : BitVec 32 := Config.otpeBase + o.setWidth 32

/-- The offset the block sees: address bits 11:0 only (20_memory R77). -/
def windowOffset (a : BitVec 32) : Addr := a.extractLsb' 0 12

end Sys2Proof.Machine
end

