-- ==== Sys2Proof/Safety.lean ====
section
/-! DEFINITION. What the machine keeps along every run, in the terms the statements use. -/

namespace Sys2Proof.Machine

/-- The state that an error completion leaves (60_exceptions R224): DONE 1, MATCH 0, the code, the detail, the phase
IDLE; nothing else changes. Written out here so that statements do not lean on the model's own completion. -/
def State.failedWith (s : State) (code : ErrCode) (info : Word) : State :=
  { s with
    regs := { s.regs with done := true, matched := false, err := code, errinfo := info }
    phase := .idle }

/-- The state that a successful completion without MATCH leaves when its commits give the registers `r`
(60_exceptions R236): DONE 1, MATCH 0, ERR and ERRINFO 0, the phase IDLE. -/
def State.succeededWith (s : State) (r : Regs) : State :=
  { s with
    regs := { r with done := true, matched := false, err := .ok, errinfo := 0 }
    phase := .idle }

/-- Every byte outside `n` bytes from `base` on reads the same. -/
def sameOutside (m m' : Memory) (base n : Nat) : Prop := ∀ a, a < base ∨ base + n ≤ a → m'.read a = m.read a

/-- The five buffers. -/
def allBuffers : List Buf := [.digest, .codestr, .cand, .secret, .key]

/-- The offset lies in the buffer (10_state R21). -/
def Buf.holds (b : Buf) (a : Nat) : Bool := decide (b.base ≤ a) && decide (a < b.base + b.size)

/-- The offset lies in some byte buffer (10_state R21). -/
def inBuffer (a : Nat) : Bool := allBuffers.any fun b => b.holds a

/-- The buffer memory is canonical and lists nothing outside the five buffers. -/
def Regs.buffersKept (r : Regs) : Bool := r.mem.wf && r.mem.all fun cell => inBuffer cell.1

/-- BINCODE is TRUNC with bit 31 cleared (10_state R40). -/
def Regs.bincodeKept (r : Regs) : Bool := decide (r.bincode = r.trunc.extractLsb' 0 31)

/-- MATCH only with ERR = 0 (10_state R31); ERRINFO is 0 on success (10_state R34), and below 2^16 unless the error is
IllegalCommand (60_exceptions R221). -/
def Regs.errorKept (r : Regs) : Bool :=
  (!r.matched || decide (r.err = .ok)) && (!decide (r.err = .ok) || decide (r.errinfo = 0))
    && (decide (r.err = .illegalCommand) || decide (r.errinfo.toNat < 2 ^ 16))

/-- `snap` differs from the registers at most in what can change while BUSY: CTRL.IE, DONE and WERR (10_state R56,
20_memory R80). -/
def Regs.matchesSnapshot (r snap : Regs) : Bool :=
  decide (snap = { r with ie := snap.ie, done := snap.done, werr := snap.werr })

/-- While a command is pending: it is a decoding of a word, DONE is 0 (60_exceptions R235), and the snapshot equals the
visible operand registers (10_state R56). -/
def State.pendingKept (s : State) : Bool :=
  match s.phase with
  | .idle => true
  | .pending op snap _ => op.wf && !s.regs.done && s.regs.matchesSnapshot snap

/-- While rst_n = 0 every register holds its reset value and the phase is IDLE (70_reset R250). -/
def State.resetKept (s : State) : Bool := s.rstN || (decide (s.regs = Regs.reset) && decide (s.phase = .idle))

/-- All of these. -/
def State.kept (s : State) : Bool :=
  s.regs.buffersKept && s.regs.bincodeKept && s.regs.errorKept && s.pendingKept && s.resetKept

end Sys2Proof.Machine
end

