-- ==== Sys2Proof/Certificates/Slice0/Obligations.lean ====
section
/-! DEFINITION. The statements for the provers, each from the numbered rules of the spec named in its docstring. -/

open Sys2Proof Sys2Proof.Machine

/-! ## Decoding -/

/-- The words of the opcode map, written out from 30_encoding R102 and R103 (and 95_test_vectors E3, E4), decode to
what they stand for. -/
def Obligations.OpcodeMapWordsDecode : Prop :=
  decodeWord 0x00000000 = .nop ∧ decodeWord 0x00000001 = .b32dec ∧ decodeWord 0x00000002 = .hmac ∧
  decodeWord 0x00000003 = .trunc ∧ decodeWord 0x00000004 = .hotp ∧ decodeWord 0x00000005 = .tdiv ∧
  decodeWord 0x00000006 = .getcode ∧ decodeWord 0x00000007 = .verify ∧ decodeWord 0x00000008 = .keyclr ∧
  decodeWord 0x00000009 = .reserved9 ∧ decodeWord 0x0000000B = .reservedAB 1 ∧
  decodeWord 0x0000000E = .reservedCF 2 ∧ decodeWord 0x00000016 = .illegalRsv 1 6 ∧
  decodeWord 0x80000000 = .illegalRsv 0x8000000 0

/-- Decoding the encoding of a well-formed instruction gives it back, at every value of its bits (30_encoding R100 to
R103). -/
def Obligations.DecodeOfEncode : Prop :=
  ∀ i : Instr, i.wf = true → decodeWord (encode i) = i

/-- Every word has exactly one decoding: it is well formed and encodes to the word (30_encoding R101, R106). -/
def Obligations.EncodeOfDecode : Prop :=
  ∀ w : Word, (decodeWord w).wf = true ∧ encode (decodeWord w) = w

/-- 30_encoding R101: the decoding at issue, for every word; an ILLEGAL word is still issued, and completes with
IllegalCommand and ERRINFO = w. -/
def Obligations.EveryWordDecodesAtIssue : Prop :=
  ∀ (s : State) (w : Word), s.busy = false →
    (s.writeReg .cmd w).phase = .pending (decodeWord w) s.regs s.wc ∧
    (w.extractLsb' 4 28 = 0 →
      ∀ p ∈ [((0 : BitVec 4), Instr.nop), (1, .b32dec), (2, .hmac), (3, .trunc), (4, .hotp), (5, .tdiv),
        (6, .getcode), (7, .verify), (8, .keyclr)], w.extractLsb' 0 4 = p.1 → decodeWord w = p.2) ∧
    (w.extractLsb' 4 28 ≠ 0 ∨ 9 ≤ (w.extractLsb' 0 4).toNat →
      (s.writeReg .cmd w).busy = true ∧
      ∃ t, exec (decodeWord w) (s.writeReg .cmd w) = .next t ∧ t.regs.err = .illegalCommand ∧ t.regs.errinfo = w)

/-! ## Steps, issue, completion -/

/-- A step runs the decoded instruction. First clause, the model's choice (log entry 4): with the word placed by
withFetchWord, which issues it with the engine's turn put first and replaces a command that is already pending, the step
is exec of its decoding on the state that the issue leaves. Second clause, 60_exceptions R236: the engine's turn runs the
pending command, from the list of turns, and when the list is used up (the model's choice, log entry 1). -/
def Obligations.StepRunsDecodedCommand : Prop :=
  (∀ (s : State) (w : Word), step (s.withFetchWord 32 w.toNat) = exec (decodeWord w) (s.issue w)) ∧
  ∀ (s : State) (op : Instr) (snap : Regs) (wc : ClockSample), s.phase = .pending op snap wc →
    (s.turns = [] → step s = exec op s) ∧
    (∀ rest, s.turns = .engine :: rest → step s = exec op { s with turns := rest })

/-- The host's turn performs the first action of its program, one at a time and in order (20_memory R79); with none left
it does nothing. The model's choices (log entry 11): a poll (30_encoding R107: "repeat") reads once at each host turn,
with 0 as the data of a misaligned or unmapped read, and stays the next action until the read data under the mask is the
value; a wait on irq (20_memory R81, R85) uses no bus and stays the next action while irq = 0. While rst_n = 0 the model
refuses a transaction (70_reset R250: unmodelled; log entry 6). -/
def Obligations.HostTurnPerformsTransaction : Prop :=
  ∀ (s : State) (ts : List Turn) (rest : List HostOp), s.turns = .host :: ts →
    (s.program = [] → step s = .next { s with turns := ts }) ∧
    (∀ off, s.program = .rd off :: rest → s.rstN = true →
      step s = .next (State.busRead { s with turns := ts, program := rest } off)) ∧
    (∀ off v, s.program = .wr off v :: rest → s.rstN = true →
      step s = .next (State.busWrite { s with turns := ts, program := rest } off v)) ∧
    (∀ off mask v, s.program = .poll off mask v :: rest → s.rstN = true →
      let rdata := (target off).elim 0 s.readReg
      (rdata &&& mask = v → step s = .next (State.busRead { s with turns := ts, program := rest } off)) ∧
      (rdata &&& mask ≠ v → step s = .next (State.busRead { s with turns := ts } off))) ∧
    (s.program = .waitIrq :: rest →
      (s.irq = true → step s = .next { s with turns := ts, program := rest }) ∧
      (s.irq = false → step s = .next { s with turns := ts })) ∧
    (∀ op, s.program = op :: rest → s.rstN = false → op ≠ .waitIrq → step s = .refused .busDuringReset)

/-- 60_exceptions R235: what a CMD write does, with BUSY = 0 and with BUSY = 1, and that nothing else changes. -/
def Obligations.IssueTakesSnapshot : Prop :=
  ∀ (s : State) (w : Word),
    (s.busy = false →
      s.busWrite 0x00C w =
        { s with
          regs := { s.regs with done := false }
          phase := .pending (decodeWord w) s.regs s.wc
          response := some (.write false) } ∧
      (s.busWrite 0x00C w).busy = true) ∧
    (s.busy = true →
      s.busWrite 0x00C w = { s with regs := { s.regs with werr := true }, response := some (.write false) })

/-- 60_exceptions R236: one completion step; the outcome is a function of (op, snap, wc) alone, an error changes only
STATUS and ERRINFO, and only VERIFY can set MATCH. -/
def Obligations.CompletionIsFunctionOfSnapshot : Prop :=
  ∃ run : Instr → Regs → ClockSample → RunOutcome,
    ∀ (s : State) (op : Instr) (snap : Regs) (wc : ClockSample), s.phase = .pending op snap wc →
      (∀ e, run op snap wc = .error e → exec op s = .next (s.failedWith e.code e.info)) ∧
      (∀ c, run op snap wc = .ok c →
        (c.matched = true → op = .verify) ∧
        exec op s = .next
          { s with
            regs := { s.regs.commit c with done := true, matched := c.matched, err := .ok, errinfo := 0 }
            phase := .idle })

/-- 10_state R30: DONE is set by every completion, and cleared by a STATUS write with bit 1, by the next issue and by
reset; it drives the interrupt. -/
def Obligations.DoneSetAndCleared : Prop :=
  (∀ (i : Instr) (s : State), ∃ t, exec i s = .next t ∧ t.regs.done = true ∧ t.irq = s.regs.ie) ∧
  (∀ (s : State) (v : Word), (s.busWrite 0x010 v).regs.done = (s.regs.done && !v.getLsbD 1)) ∧
  (∀ (s : State) (w : Word), s.busy = false → (s.busWrite 0x00C w).regs.done = false) ∧
  (∀ (s : State) (v : Word), v.getLsbD 1 = true → (s.busWrite 0x004 v).regs.done = false) ∧
  (∀ s : State, (s.resetPinTurn false).regs.done = false)

/-- 60_exceptions R224: a command that raises an error commits nothing but STATUS and ERRINFO. -/
def Obligations.ErrorCommitsNothing : Prop :=
  ∀ (i : Instr) (s t : State), exec i s = .next t → t.regs.err ≠ .ok →
    t = s.failedWith t.regs.err t.regs.errinfo

/-- 10_state R62, the column of writes: what each command leaves unchanged, of the registers, the buffers, the ports
and the environment. -/
def Obligations.CommandsWriteOnlyTheirResults : Prop :=
  ∀ (i : Instr) (s t : State), exec i s = .next t →
    t = { s with regs := t.regs, phase := .idle } ∧
    (t.regs.ie = s.regs.ie ∧ t.regs.digits = s.regs.digits ∧ t.regs.lock = s.regs.lock ∧
      t.regs.werr = s.regs.werr ∧ t.regs.seclen = s.regs.seclen ∧ t.regs.candlen = s.regs.candlen ∧
      t.regs.time = s.regs.time ∧ t.regs.tslice = s.regs.tslice ∧ t.regs.disc = s.regs.disc) ∧
    (i ≠ .b32dec → i ≠ .keyclr → t.regs.keylen = s.regs.keylen) ∧
    (i ≠ .tdiv → i ≠ .getcode → i ≠ .verify → t.regs.counter = s.regs.counter) ∧
    (i ≠ .verify → t.regs.matchctr = s.regs.matchctr) ∧
    (i ≠ .trunc → i ≠ .hotp → i ≠ .getcode →
      t.regs.offset = s.regs.offset ∧ t.regs.trunc = s.regs.trunc ∧ t.regs.bincode = s.regs.bincode ∧
        t.regs.code = s.regs.code) ∧
    (∀ a, t.regs.mem.read a ≠ s.regs.mem.read a →
      (Buf.holds .key a = true ∧ (i = .b32dec ∨ i = .keyclr)) ∨
      (Buf.holds .digest a = true ∧ (i = .hmac ∨ i = .hotp ∨ i = .getcode)) ∨
      (Buf.holds .codestr a = true ∧ (i = .trunc ∨ i = .hotp ∨ i = .getcode)))

/-- 10_state R62, the column of reads, for the commands with operands: two snapshots that agree on the fields a command
reads give the same completion, whatever else they and the clock sample hold. -/
def Obligations.CommandsReadOnlyTheirOperands : Prop :=
  ∀ (s : State) (op op' : Instr) (r r' : Regs) (wc wc' : ClockSample),
    let s₁ : State := { s with phase := .pending op r wc }
    let s₂ : State := { s with phase := .pending op' r' wc' }
    (r.seclen = r'.seclen → (16 ≤ r.seclen.toNat → r.seclen.toNat ≤ 128 → r.secretText = r'.secretText) →
      exec .b32dec s₁ = exec .b32dec s₂) ∧
    (r.keylen = r'.keylen → (r.keylen.toNat ≤ 80 → r.keyBytes = r'.keyBytes) → r.counter = r'.counter →
      exec .hmac s₁ = exec .hmac s₂ ∧ (r.digits = r'.digits → exec .hotp s₁ = exec .hotp s₂)) ∧
    (r.digits = r'.digits → r.digestBytes = r'.digestBytes → exec .trunc s₁ = exec .trunc s₂) ∧
    (r.time = r'.time → exec .tdiv s₁ = exec .tdiv s₂) ∧
    (r.digits = r'.digits → r.seclen = r'.seclen →
      (16 ≤ r.seclen.toNat → r.seclen.toNat ≤ 128 → r.secretText = r'.secretText) →
      r.tslice = r'.tslice → (r.tslice = 0 → wc = wc') →
      exec .getcode s₁ = exec .getcode s₂ ∧
      (r.candlen = r'.candlen → (r.candlen.toNat = r.digitCount →
          r.candidate r.digitCount = r'.candidate r.digitCount ∧ r.disc = r'.disc) →
        exec .verify s₁ = exec .verify s₂))

/-! ## The commands -/

/-- 45_control R210: NOP does nothing but complete, and passes through BUSY with the clock sampled. -/
def Obligations.NopOnlyCompletes : Prop :=
  (∀ s : State, exec .nop s = .next (s.succeededWith s.regs)) ∧
  decodeWord 0x00000000 = .nop ∧
  (∀ s : State, s.busy = false →
    (s.busWrite 0x00C 0).busy = true ∧ (s.busWrite 0x00C 0).phase = .pending .nop s.regs s.wc) ∧
  (∀ s : State, s.busy = true → (s.busWrite 0x00C 0).phase = s.phase)

/-- 45_control R211: KEYCLR clears KEY and KEYLEN and touches nothing else; a key read then is the empty key. -/
def Obligations.KeyclrClearsKey : Prop :=
  ∀ s : State, s.regs.mem.wf = true →
    ∃ t, exec .keyclr s = .next t ∧
      t = s.succeededWith { s.regs with keylen := 0, mem := t.regs.mem } ∧
      (∀ j, j < 80 → t.regs.mem.read (Buf.key.base + j) = 0) ∧
      sameOutside s.regs.mem t.regs.mem Buf.key.base 80 ∧
      t.regs.keyBytes = [] ∧ t.regs.keylenOk = true

/-- 43_totp R183, with R180: TDIV writes floor(TIME / 30) to COUNTER, never fails, and touches nothing else. -/
def Obligations.TdivWritesQuotient : Prop :=
  ∀ s : State,
    ∃ t, exec .tdiv s = .next t ∧
      t = s.succeededWith { s.regs with counterLo := t.regs.counterLo, counterHi := t.regs.counterHi } ∧
      t.regs.counter.toNat = s.snapshot.time.toNat / 30

/-- 41_hmac_sha1 R150: HMAC writes the 20 bytes of the digest of BE64(COUNTER) under KEY[0..KEYLEN) when KEYLEN is at
most 80, and otherwise ends with InvalidKeyLength, ERRINFO = KEYLEN. -/
def Obligations.HmacWritesDigest : Prop :=
  ∀ s : State, s.regs.mem.wf = true →
    (s.snapshot.keylen.toNat ≤ 80 →
      ∃ t, exec .hmac s = .next t ∧
        t = s.succeededWith { s.regs with mem := t.regs.mem } ∧
        t.regs.digestBytes =
          hmacSha1 (s.snapshot.mem.readBytes 0x180 s.snapshot.keylen.toNat) (be64 s.snapshot.counter) ∧
        sameOutside s.regs.mem t.regs.mem Buf.digest.base 20) ∧
    (80 < s.snapshot.keylen.toNat →
      exec .hmac s = .next (s.failedWith .invalidKeyLength (BitVec.ofNat 32 s.snapshot.keylen.toNat)))

/-- 42_truncation_hotp R166, with R160 to R164 written out: the results of TRUNC for every legal digit count, and
InvalidDigits with ERRINFO = DIGITS, and nothing else, for every other. -/
def Obligations.TruncWritesCode : Prop :=
  ∀ s : State, s.regs.mem.wf = true →
    (1 ≤ s.snapshot.digits.toNat → s.snapshot.digits.toNat ≤ 10 →
      ∃ t, exec .trunc s = .next t ∧
        t = s.succeededWith
          { s.regs with
            offset := t.regs.offset, trunc := t.regs.trunc, bincode := t.regs.bincode, code := t.regs.code
            mem := t.regs.mem } ∧
        (let d := fun j => s.snapshot.mem.read (0x080 + j)
         let n := s.snapshot.digits.toNat
         let o := (d 19).toNat % 16
         t.regs.offset.toNat = o ∧
         t.regs.trunc.toNat =
           (d o).toNat * 2 ^ 24 + (d (o + 1)).toNat * 2 ^ 16 + (d (o + 2)).toNat * 2 ^ 8 + (d (o + 3)).toNat ∧
         t.regs.bincode.toNat = t.regs.trunc.toNat % 2 ^ 31 ∧
         t.regs.code.toNat = t.regs.bincode.toNat % 10 ^ n ∧
         (∀ i, i < n →
           (t.regs.mem.read (0x0A0 + i)).toNat = 0x30 + t.regs.code.toNat / 10 ^ (n - 1 - i) % 10) ∧
         (∀ i, n ≤ i → i < 12 → t.regs.mem.read (0x0A0 + i) = 0)) ∧
        sameOutside s.regs.mem t.regs.mem Buf.codestr.base 12) ∧
    (s.snapshot.digits.toNat < 1 ∨ 10 < s.snapshot.digits.toNat →
      exec .trunc s = .next (s.failedWith .invalidDigits (BitVec.ofNat 32 s.snapshot.digits.toNat)))

/-- 42_truncation_hotp R167: HOTP writes the digest of BE64(COUNTER) under KEY[0..KEYLEN) and the code of that digest,
and touches nothing else; a bad digit count, and then a bad key length, ends it with its error. -/
def Obligations.HotpWritesCode : Prop :=
  ∀ s : State, s.regs.mem.wf = true →
    (1 ≤ s.snapshot.digits.toNat → s.snapshot.digits.toNat ≤ 10 → s.snapshot.keylen.toNat ≤ 80 →
      ∃ t, exec .hotp s = .next t ∧
        t = s.succeededWith
          { s.regs with
            offset := t.regs.offset, trunc := t.regs.trunc, bincode := t.regs.bincode, code := t.regs.code
            mem := t.regs.mem } ∧
        (let d := hmacSha1 (s.snapshot.mem.readBytes 0x180 s.snapshot.keylen.toNat) (be64 s.snapshot.counter)
         let n := s.snapshot.digits.toNat
         t.regs.digestBytes = d ∧
         t.regs.offset = truncOffset d ∧ t.regs.trunc = truncWord d ∧ t.regs.bincode = binCode d ∧
         t.regs.code.toNat = codeValue d n ∧
         t.regs.bytes .codestr 12 = render (codeValue d n) n ++ List.replicate (12 - n) 0) ∧
        (∀ a, ¬ (Buf.holds .digest a = true) → ¬ (Buf.holds .codestr a = true) →
          t.regs.mem.read a = s.regs.mem.read a)) ∧
    (s.snapshot.digits.toNat < 1 ∨ 10 < s.snapshot.digits.toNat →
      exec .hotp s = .next (s.failedWith .invalidDigits (BitVec.ofNat 32 s.snapshot.digits.toNat))) ∧
    (1 ≤ s.snapshot.digits.toNat → s.snapshot.digits.toNat ≤ 10 → 80 < s.snapshot.keylen.toNat →
      exec .hotp s = .next (s.failedWith .invalidKeyLength (BitVec.ofNat 32 s.snapshot.keylen.toNat)))

/-- 42_truncation_hotp R167, with 41_hmac_sha1 R150 and R166: issued from the same registers, one HOTP leaves the very
state that HMAC and then TRUNC leave. -/
def Obligations.HotpIsHmacThenTrunc : Prop :=
  ∀ s : State, s.busy = false → s.regs.mem.wf = true → 1 ≤ s.regs.digits.toNat → s.regs.digits.toNat ≤ 10 →
    s.regs.keylen.toNat ≤ 80 →
    ∃ t u, exec .hmac (s.busWrite 0x00C 0x2) = .next t ∧ exec .trunc (t.busWrite 0x00C 0x3) = .next u ∧
      exec .hotp (s.busWrite 0x00C 0x4) = .next u ∧
      u.regs.err = .ok ∧ u.regs.digestBytes = hmacSha1 s.regs.keyBytes (be64 s.regs.counter)

/-- 40_base32 R130: B32DEC commits the decoded key, its length, and zeros to the end of KEY; on an error of the decoder
it reports that error and changes nothing else. -/
def Obligations.B32decWritesKey : Prop :=
  ∀ s : State, s.regs.mem.wf = true →
    (∀ e, b32decode s.snapshot = .error e → exec .b32dec s = .next (s.failedWith e.code e.info)) ∧
    (∀ key, b32decode s.snapshot = .ok key →
      ∃ t, exec .b32dec s = .next t ∧
        t = s.succeededWith { s.regs with keylen := t.regs.keylen, mem := t.regs.mem } ∧
        t.regs.keylen.toNat = key.length ∧ t.regs.keyBytes = key ∧
        (∀ j, key.length ≤ j → j < 80 → t.regs.mem.read (Buf.key.base + j) = 0) ∧
        sameOutside s.regs.mem t.regs.mem Buf.key.base 80)

/-- 43_totp R187, with R184 to R186: GETCODE resolves the counter (the override where it is not 0, else the clock
sample over 30), and leaves the digest and the code of the decoded secret at it; KEY and KEYLEN keep their values; the
errors of its checks, in their order. -/
def Obligations.GetcodeWritesCode : Prop :=
  ∀ s : State, s.regs.mem.wf = true →
    (∀ (key : List Byte) (c : DWord), 1 ≤ s.snapshot.digits.toNat → s.snapshot.digits.toNat ≤ 10 →
      b32decode s.snapshot = .ok key →
      (s.snapshot.tslice ≠ 0 → c = s.snapshot.tslice) →
      (s.snapshot.tslice = 0 → s.sample.valid = true ∧ c.toNat = s.sample.seconds.toNat / 30) →
      ∃ t, exec .getcode s = .next t ∧
        t = s.succeededWith
          { s.regs with
            counterLo := t.regs.counterLo, counterHi := t.regs.counterHi
            offset := t.regs.offset, trunc := t.regs.trunc, bincode := t.regs.bincode, code := t.regs.code
            mem := t.regs.mem } ∧
        (let d := hmacSha1 key (be64 c)
         let n := s.snapshot.digits.toNat
         t.regs.counter = c ∧ t.regs.digestBytes = d ∧
         t.regs.offset = truncOffset d ∧ t.regs.trunc = truncWord d ∧ t.regs.bincode = binCode d ∧
         t.regs.code.toNat = codeValue d n ∧
         t.regs.bytes .codestr 12 = render (codeValue d n) n ++ List.replicate (12 - n) 0) ∧
        (∀ a, ¬ (Buf.holds .digest a = true) → ¬ (Buf.holds .codestr a = true) →
          t.regs.mem.read a = s.regs.mem.read a)) ∧
    (s.snapshot.digits.toNat < 1 ∨ 10 < s.snapshot.digits.toNat →
      exec .getcode s = .next (s.failedWith .invalidDigits (BitVec.ofNat 32 s.snapshot.digits.toNat))) ∧
    (1 ≤ s.snapshot.digits.toNat → s.snapshot.digits.toNat ≤ 10 →
      (∀ e, b32decode s.snapshot = .error e → exec .getcode s = .next (s.failedWith e.code e.info)) ∧
      (∀ key, b32decode s.snapshot = .ok key → s.snapshot.tslice = 0 → s.sample.valid = false →
        exec .getcode s = .next (s.failedWith .clockUnavailable 0)))

/-- 44_verify R201, with R195 to R200: when the length gate passes, MATCH is 1 exactly when some counter of the window
has the candidate as its code, and MATCHCTR is then the least such counter, else 0; nothing but COUNTER, MATCHCTR and
the flags changes. -/
def Obligations.VerifyFindsLeastMatch : Prop :=
  ∀ (s : State) (key : List Byte) (c : DWord),
    1 ≤ s.snapshot.digits.toNat → s.snapshot.digits.toNat ≤ 10 →
    b32decode s.snapshot = .ok key → s.snapshot.candlen.toNat = s.snapshot.digits.toNat →
    resolve s.snapshot.tslice s.sample = .ok c →
    ∃ t, exec .verify s = .next t ∧
      t = { s with
        regs := { s.regs with
          counterLo := t.regs.counterLo, counterHi := t.regs.counterHi
          matchctrLo := t.regs.matchctrLo, matchctrHi := t.regs.matchctrHi
          done := true, matched := t.regs.matched, err := .ok, errinfo := 0 }
        phase := .idle } ∧
      t.regs.counter = c ∧
      (let n := s.snapshot.digits.toNat
       let hit := fun x : Nat =>
         c.toNat - s.snapshot.disc.toNat ≤ x ∧ x ≤ min (c.toNat + s.snapshot.disc.toNat) (2 ^ 64 - 1) ∧
           sliceCode key x n = s.snapshot.mem.readBytes 0x0B0 n
       (t.regs.matched = true ↔ ∃ x, hit x) ∧
       (t.regs.matched = true → hit t.regs.matchctr.toNat ∧ ∀ x, hit x → t.regs.matchctr.toNat ≤ x) ∧
       (t.regs.matched = false → t.regs.matchctr = 0))

/-- 44_verify R196: a wrong CANDLEN is no match at once, and no error, whatever the clock and the candidate; COUNTER
keeps its value. -/
def Obligations.VerifyLengthGate : Prop :=
  ∀ (s : State) (key : List Byte), 1 ≤ s.snapshot.digits.toNat → s.snapshot.digits.toNat ≤ 10 →
    b32decode s.snapshot = .ok key → s.snapshot.candlen.toNat ≠ s.snapshot.digits.toNat →
    exec .verify s = .next (s.succeededWith { s.regs with matchctrLo := 0, matchctrHi := 0 })

/-- 30_encoding R103: every reserved or illegal word completes with IllegalCommand and its own word, MATCH 0, and
nothing else. -/
def Obligations.ReservedWordsReportIllegalCommand : Prop :=
  (∀ (s : State) (w : Word), w.extractLsb' 4 28 ≠ 0 ∨ 9 ≤ (w.extractLsb' 0 4).toNat →
    exec (decodeWord w) s = .next (s.failedWith .illegalCommand w)) ∧
  (∀ s : State, exec .reserved9 s = .next (s.failedWith .illegalCommand 9)) ∧
  (∀ (s : State) (b : BitVec 1),
    exec (.reservedAB b) s = .next (s.failedWith .illegalCommand (BitVec.ofNat 32 (10 + b.toNat)))) ∧
  (∀ (s : State) (b : BitVec 2),
    exec (.reservedCF b) s = .next (s.failedWith .illegalCommand (BitVec.ofNat 32 (12 + b.toNat)))) ∧
  (∀ (s : State) (rsv : BitVec 28) (op : BitVec 4),
    exec (.illegalRsv rsv op) s = .next (s.failedWith .illegalCommand (BitVec.ofNat 32 (16 * rsv.toNat + op.toNat))))

/-- 60_exceptions R223: the first check that fails decides the error, for the commands with more than one check. -/
def Obligations.ErrorPrecedence : Prop :=
  ∀ s : State,
    let r := s.snapshot
    let n := r.digits.toNat
    (n < 1 ∨ 10 < n →
      ∀ i ∈ [Instr.trunc, .hotp, .getcode, .verify],
        exec i s = .next (s.failedWith .invalidDigits (BitVec.ofNat 32 n))) ∧
    (1 ≤ n → n ≤ 10 → 80 < r.keylen.toNat →
      exec .hotp s = .next (s.failedWith .invalidKeyLength (BitVec.ofNat 32 r.keylen.toNat))) ∧
    (1 ≤ n → n ≤ 10 → ∀ e, b32decode r = .error e →
      ∀ i ∈ [Instr.getcode, .verify], exec i s = .next (s.failedWith e.code e.info)) ∧
    (1 ≤ n → n ≤ 10 → ∀ key, b32decode r = .ok key → r.tslice = 0 → s.sample.valid = false →
      exec .getcode s = .next (s.failedWith .clockUnavailable 0) ∧
      (r.candlen.toNat = n → exec .verify s = .next (s.failedWith .clockUnavailable 0)))

/-! ## The base32 decoder -/

/-- 40_base32 R121: the length bound is checked first, both ends are in it, and no byte of the text is looked at. -/
def Obligations.SecretLengthCheckedFirst : Prop :=
  ∀ r : Regs,
    (r.seclen.toNat < 16 ∨ 128 < r.seclen.toNat →
      ∀ m : Memory, b32decode { r with mem := m } =
        .error ⟨.invalidSecretLength, BitVec.ofNat 32 r.seclen.toNat⟩) ∧
    (16 ≤ r.seclen.toNat → r.seclen.toNat ≤ 128 →
      ∀ e, b32decode r = .error e → e.code = .invalidSecretEncoding)

/-- 40_base32 R122: the first byte outside the alphabet decides the error, before any check of the padding; lowercase
letters are outside. -/
def Obligations.FirstBadCharacterReported : Prop :=
  (∀ (r : Regs) (i : Nat), 16 ≤ r.seclen.toNat → r.seclen.toNat ≤ 128 → i < r.seclen.toNat →
    (∀ j, j < i → inAlphabet (r.mem.read (0x100 + j)) = true) → inAlphabet (r.mem.read (0x100 + i)) = false →
    b32decode r = .error ⟨.invalidSecretEncoding, BitVec.ofNat 32 (0x100 + i)⟩) ∧
  (∀ b : Byte, 0x61 ≤ b.toNat → b.toNat ≤ 0x7A → inAlphabet b = false)

/-- 40_base32 R123 to R125: a secret of legal length inside the alphabet whose length, pad position or pad count is
wrong is rejected with the sub-cause and position of the first of the three checks that fails. -/
def Obligations.MalformedPaddingReported : Prop :=
  ∀ r : Regs, 16 ≤ r.seclen.toNat → r.seclen.toNat ≤ 128 →
    let text := r.mem.readBytes 0x100 r.seclen.toNat
    (∀ b ∈ text, inAlphabet b = true) →
    (r.seclen.toNat % 8 ≠ 0 →
      b32decode r = .error ⟨.invalidSecretEncoding, BitVec.ofNat 32 (0x200 + r.seclen.toNat)⟩) ∧
    (r.seclen.toNat % 8 = 0 → ∀ data p, text = data ++ List.replicate p (0x3D : Byte) →
      (∀ b ∈ data.getLast?, b ≠ 0x3D) →
      (∀ i, (∀ j, j < i → data[j]? ≠ some 0x3D) → data[i]? = some 0x3D →
        b32decode r = .error ⟨.invalidSecretEncoding, BitVec.ofNat 32 (0x300 + i)⟩) ∧
      ((∀ b ∈ data, b ≠ 0x3D) → p ∉ [0, 1, 3, 4, 6] →
        b32decode r = .error ⟨.invalidSecretEncoding, BitVec.ofNat 32 (0x400 + p)⟩))

/-- 40_base32 R126: bit b (from the top) of key byte j is bit (8j + b) of the joined 5-bit symbol values, first symbol
first and most significant bit first. -/
def Obligations.UnpackedBitsAreSymbolBits : Prop :=
  ∀ data : List Byte,
    (unpackKey data).length = 5 * data.length / 8 ∧
    ∀ j b, j < 5 * data.length / 8 → b < 8 →
      ((unpackKey data).getD j 0).getLsbD (7 - b) =
        Nat.testBit ((symbolValue (data.getD ((8 * j + b) / 5) 0)).getD 0) (4 - (8 * j + b) % 5)

/-- 40_base32 R127, R129: in a well padded secret of legal length, non-zero leftover bits are rejected with sub-cause 5
at the last data character, and with zero leftover bits the secret decodes to its unpacked data characters. -/
def Obligations.LeftoverBitsMustBeZero : Prop :=
  ∀ (r : Regs) (data : List Byte) (p : Nat), 16 ≤ r.seclen.toNat → r.seclen.toNat ≤ 128 → r.seclen.toNat % 8 = 0 →
    r.mem.readBytes 0x100 r.seclen.toNat = data ++ List.replicate p 0x3D → p ∈ [0, 1, 3, 4, 6] →
    (∀ b ∈ data, (symbolValue b).isSome = true) →
    b32decode r =
      if symbolBits data % 2 ^ (5 * data.length % 8) ≠ 0 then
        .error ⟨.invalidSecretEncoding, BitVec.ofNat 32 (0x500 + (data.length - 1))⟩
      else .ok (unpackKey data)

/-- 40_base32 R128: the length of every decoded key, by the pad count of its text, and its bounds. -/
def Obligations.DecodedKeyLength : Prop :=
  ∀ (r : Regs) (key : List Byte), b32decode r = .ok key →
    6 ≤ key.length ∧ key.length ≤ 80 ∧
    ∃ p, (p, key.length) ∈ [(0, 5 * (r.seclen.toNat / 8 - 1) + 5), (1, 5 * (r.seclen.toNat / 8 - 1) + 4),
      (3, 5 * (r.seclen.toNat / 8 - 1) + 3), (4, 5 * (r.seclen.toNat / 8 - 1) + 2),
      (6, 5 * (r.seclen.toNat / 8 - 1) + 1)] ∧
      p = padCount r.secretText

/-- 92_eei_decisions D21: decoding is injective on accepted input, so each key has exactly one accepted text. -/
def Obligations.AcceptedTextIsUnique : Prop :=
  ∀ (r r' : Regs) (key : List Byte), b32decode r = .ok key → b32decode r' = .ok key →
    r.seclen = r'.seclen ∧ r.secretText = r'.secretText

/-! ## SHA-1, HMAC, truncation, divider -/

/-- 41_hmac_sha1 R140: the padded message, with the least number of zero bytes that fills the last block. -/
def Obligations.PaddingFillsBlocks : Prop :=
  ∀ msg : List Byte, msg.length < 2 ^ 61 →
    ∃ z, sha1Pad msg = msg ++ [0x80] ++ List.replicate z 0 ++ be64 (BitVec.ofNat 64 (8 * msg.length)) ∧
      (msg.length + 1 + z) % 64 = 56 ∧ (∀ z', (msg.length + 1 + z') % 64 = 56 → z ≤ z') ∧
      (sha1Pad msg).length = 64 * ((msg.length + 1 + z + 8) / 64)

/-- 41_hmac_sha1 R141: the schedule has 80 words, the first sixteen big-endian from the block, each later one from four
words before it. -/
def Obligations.ScheduleRecurrence : Prop :=
  ∀ blk : List Byte, blk.length = 64 →
    (schedule blk).length = 80 ∧
    (∀ t, t < 16 → (schedule blk).getD t 0 =
      be32 (blk.getD (4 * t) 0) (blk.getD (4 * t + 1) 0) (blk.getD (4 * t + 2) 0) (blk.getD (4 * t + 3) 0)) ∧
    (∀ t, 16 ≤ t → t < 80 → (schedule blk).getD t 0 =
      ((schedule blk).getD (t - 3) 0 ^^^ (schedule blk).getD (t - 8) 0 ^^^ (schedule blk).getD (t - 14) 0 ^^^
        (schedule blk).getD (t - 16) 0).rotateLeft 1)

/-- 41_hmac_sha1 R145, R147: HMAC is the outer hash (0x5C) of the inner hash (0x36), on the key with zeros to 64 bytes; a
key longer than 64 bytes acts as its SHA-1, and one of 64 bytes is used as it is; every digest has 20 bytes. -/
def Obligations.HmacIsOuterHashOfInnerHash : Prop :=
  ∀ key msg : List Byte,
    (sha1 msg).length = 20 ∧ (hmacSha1 key msg).length = 20 ∧
    (key.length ≤ 64 →
      let k0 := key ++ List.replicate (64 - key.length) 0
      k0.length = 64 ∧
      hmacSha1 key msg = sha1 (k0.map (· ^^^ 0x5C) ++ sha1 (k0.map (· ^^^ 0x36) ++ msg))) ∧
    (64 < key.length → hmacSha1 key msg = hmacSha1 (sha1 key) msg)

/-- 41_hmac_sha1 R146: byte i of BE64(c) is bits 63-8i down to 56-8i of c. -/
def Obligations.CounterBytesBigEndian : Prop :=
  ∀ c : DWord, (be64 c).length = 8 ∧
    ∀ i, i < 8 → ((be64 c).getD i 0).toNat = c.toNat / 2 ^ (56 - 8 * i) % 256

/-- 42_truncation_hotp R160, R161: only the low nibble of byte 19 selects, the window lies in bytes 0 to 18, and no
other byte has an influence. -/
def Obligations.TruncationReadsItsWindow : Prop :=
  ∀ d d' : List Byte,
    (truncOffset d).toNat = (d.getD 19 0).toNat % 16 ∧ (truncOffset d).toNat + 3 ≤ 18 ∧
    ((d.getD 19 0).toNat % 16 = (d'.getD 19 0).toNat % 16 →
      (∀ k, k < 4 → d.getD ((d.getD 19 0).toNat % 16 + k) 0 = d'.getD ((d.getD 19 0).toNat % 16 + k) 0) →
      ∀ n, dynTrunc d n = dynTrunc d' n)

/-- 42_truncation_hotp R163, R164: a code is below 10^n, for n = 10 it is binCode itself, and its rendering is n ASCII
digits whose decimal value is the code. -/
def Obligations.RenderingLosesNothing : Prop :=
  (∀ (d : List Byte) (n : Nat), codeValue d n < 10 ^ n) ∧
  (∀ d : List Byte, codeValue d 10 = (binCode d).toNat) ∧
  (∀ code n : Nat, code < 10 ^ n →
    (render code n).length = n ∧ (∀ b ∈ render code n, 0x30 ≤ b.toNat ∧ b.toNat ≤ 0x39) ∧
    (render code n).foldl (fun acc b => 10 * acc + (b.toNat - 0x30)) 0 = code)

/-- 43_totp R181: each counter value covers one 30-second slice, and the divider is monotone. -/
def Obligations.DividerSlices : Prop :=
  (∀ t c : DWord, counterForTime t = c ↔ 30 * c.toNat ≤ t.toNat ∧ t.toNat ≤ 30 * c.toNat + 29) ∧
  (∀ t t' : DWord, t.toNat ≤ t'.toNat → (counterForTime t).toNat ≤ (counterForTime t').toNat)

/-! ## Composite commands -/

/-- 44_verify R202 (a): a code that GETCODE gave at a non-zero override verifies at the same override with DISC = 0,
whatever else changed in between. -/
def Obligations.OwnCodeVerifies : Prop :=
  ∀ s t v : State, s.regs.mem.wf = true → s.snapshot.tslice ≠ 0 → exec .getcode s = .next t → t.regs.err = .ok →
    v.snapshot.digits = s.snapshot.digits → v.snapshot.seclen = s.snapshot.seclen →
    v.snapshot.secretText = s.snapshot.secretText → v.snapshot.tslice = s.snapshot.tslice →
    v.snapshot.candlen.toNat = s.snapshot.digits.toNat →
    v.snapshot.candidate s.snapshot.digitCount = t.regs.bytes .codestr s.snapshot.digitCount →
    v.snapshot.disc = 0 →
    ∃ u, exec .verify v = .next u ∧ u.regs.matched = true ∧ u.regs.matchctr = s.snapshot.tslice

/-- 44_verify R202 (b): VERIFY at a non-zero override accepts the code of every counter within DISC of it; it accepts
no code that no counter of the window has. -/
def Obligations.WindowTolerance : Prop :=
  ∀ (v : State) (key : List Byte), 1 ≤ v.snapshot.digits.toNat → v.snapshot.digits.toNat ≤ 10 →
    b32decode v.snapshot = .ok key → v.snapshot.tslice ≠ 0 →
    v.snapshot.candlen.toNat = v.snapshot.digits.toNat →
    (∀ x : Nat, x < 2 ^ 64 → x ≤ v.snapshot.tslice.toNat + v.snapshot.disc.toNat →
      v.snapshot.tslice.toNat ≤ x + v.snapshot.disc.toNat →
      v.snapshot.candidate v.snapshot.digitCount = sliceCode key x v.snapshot.digitCount →
      ∃ u, exec .verify v = .next u ∧ u.regs.matched = true) ∧
    ((∀ x : Nat, x < 2 ^ 64 → x ≤ v.snapshot.tslice.toNat + v.snapshot.disc.toNat →
        v.snapshot.tslice.toNat ≤ x + v.snapshot.disc.toNat →
        v.snapshot.candidate v.snapshot.digitCount ≠ sliceCode key x v.snapshot.digitCount) →
      ∃ u, exec .verify v = .next u ∧ u.regs.matched = false ∧ u.regs.err = .ok)

/-- 43_totp R187 against 40_base32 R130 and 42_truncation_hotp R167: GETCODE, issued at an override, gives the same
counter, digest and code as B32DEC, then two writes of the override to COUNTER, then HOTP, each issued in turn. -/
def Obligations.GetcodeIsB32decThenHotp : Prop :=
  ∀ s t : State, s.busy = false → s.regs.mem.wf = true → s.regs.tslice ≠ 0 →
    exec .getcode (s.busWrite 0x00C 0x6) = .next t → t.regs.err = .ok →
    ∃ u v, exec .b32dec (s.busWrite 0x00C 0x1) = .next u ∧
      exec .hotp (((u.busWrite 0x050 s.regs.tsliceLo).busWrite 0x054 s.regs.tsliceHi).busWrite 0x00C 0x4) = .next v ∧
      v.regs.err = .ok ∧ v.regs.counter = t.regs.counter ∧ v.regs.digestBytes = t.regs.digestBytes ∧
      v.regs.offset = t.regs.offset ∧ v.regs.trunc = t.regs.trunc ∧ v.regs.bincode = t.regs.bincode ∧
      v.regs.code = t.regs.code ∧ v.regs.bytes .codestr 12 = t.regs.bytes .codestr 12

/-! ## The bus -/

/-- 20_memory R71, R74 and R75, 10_state R21: misaligned and unmapped transactions get ERROR, a read of them returns 0,
and nothing of the block changes; every other offset is mapped, to the register whose offset it is, and reads with OKAY
and no side effect. -/
def Obligations.BusFollowsTheRegisterMap : Prop :=
  ∀ (s : State) (off : Addr) (v : Word),
    (off.toNat % 4 ≠ 0 ∨
      (0x034 ≤ off.toNat ∧ off.toNat ≤ 0x03F) ∨ (0x068 ≤ off.toNat ∧ off.toNat ≤ 0x07F) ∨
      (0x094 ≤ off.toNat ∧ off.toNat ≤ 0x09F) ∨ (0x0AC ≤ off.toNat ∧ off.toNat ≤ 0x0AF) ∨
      (0x0BC ≤ off.toNat ∧ off.toNat ≤ 0x0FF) ∨ 0x1D0 ≤ off.toNat →
      s.busRead off = { s with response := some (.read true 0) } ∧
      s.busWrite off v = { s with response := some (.write true) }) ∧
    (off.toNat % 4 = 0 →
      (off.toNat ≤ 0x030 ∨ (0x040 ≤ off.toNat ∧ off.toNat ≤ 0x064) ∨ (0x080 ≤ off.toNat ∧ off.toNat ≤ 0x090) ∨
        (0x0A0 ≤ off.toNat ∧ off.toNat ≤ 0x0A8) ∨ (0x0B0 ≤ off.toNat ∧ off.toNat ≤ 0x0B8) ∨
        (0x100 ≤ off.toNat ∧ off.toNat ≤ 0x1CC)) →
      ∃ n, target off = some n ∧ n.offsetOf = off.toNat ∧
        s.busRead off = { s with response := some (.read false (s.readReg n)) } ∧
        (s.busWrite off v).response = some (.write false))

/-- 20_memory R80, with 10_state R24 and R28: while BUSY = 1 a write to any mapped offset but CTRL and STATUS changes
nothing but WERR, with OKAY (a CFG write with LOCK = 1 too, which is the model's choice, log entry 16). CTRL and STATUS
writes and reads act in every state, BUSY or not: an SRST write resets, any other CTRL write sets IE alone, and a STATUS
write clears DONE and WERR where it has a 1, and nothing else; reads return the values from before the commit. -/
def Obligations.BusyWritesIgnored : Prop :=
  ∀ (s : State) (off : Addr) (v : Word) (n : RegName), target off = some n →
    (s.busy = true → n ≠ .ctrl → n ≠ .status →
      s.busWrite off v = { s with regs := { s.regs with werr := true }, response := some (.write false) }) ∧
    (n = .ctrl → v.getLsbD 1 = false →
      s.busWrite off v = { s with regs := { s.regs with ie := v.getLsbD 0 }, response := some (.write false) }) ∧
    (n = .ctrl → v.getLsbD 1 = true →
      s.busWrite off v = { s with regs := Regs.reset, phase := .idle, response := some (.write false) }) ∧
    (n = .status →
      s.busWrite off v =
        { s with
          regs := { s.regs with
            done := s.regs.done && !v.getLsbD 1, werr := s.regs.werr && !v.getLsbD 3 }
          response := some (.write false) }) ∧
    s.busRead off = { s with response := some (.read false (s.readReg n)) }

/-- 10_state R22 to R27, R34 to R46, R52: in every state a bus read of each named register but STATUS (which has
StatusFields) returns its field at its bits and 0 elsewhere, CFG with LOCK at bit 31 and DIGITS at bits 4:0, ID its
constant, CMD 0. While BUSY = 0 a write of an RW register is read back in its field's bits with 0 outside them, and every
other register keeps its value (each half of a pair on its own); a write of a read-only register or buffer (ID, ERRINFO,
OFFSET, TRUNC, BINCODE, CODE, MATCHCTR, CODESTR) is ignored, with OKAY. -/
def Obligations.RegistersFollowTheirAccessType : Prop :=
  (∀ s : State, ∀ p ∈ [((0x000 : Addr), 0x4F545045), (0x004, s.regs.ie.toNat),
      (0x008, 2 ^ 31 * s.regs.lock.toNat + s.regs.digits.toNat), (0x00C, 0), (0x014, s.regs.errinfo.toNat),
      (0x018, s.regs.seclen.toNat), (0x01C, s.regs.keylen.toNat), (0x020, s.regs.candlen.toNat),
      (0x024, s.regs.offset.toNat), (0x028, s.regs.trunc.toNat), (0x02C, s.regs.bincode.toNat),
      (0x030, s.regs.code.toNat), (0x040, s.regs.timeLo.toNat), (0x044, s.regs.timeHi.toNat),
      (0x048, s.regs.tsliceLo.toNat), (0x04C, s.regs.tsliceHi.toNat), (0x050, s.regs.counterLo.toNat),
      (0x054, s.regs.counterHi.toNat), (0x058, s.regs.discLo.toNat), (0x05C, s.regs.discHi.toNat),
      (0x060, s.regs.matchctrLo.toNat), (0x064, s.regs.matchctrHi.toNat)],
    ∃ w : Word, (s.busRead p.1).response = some (.read false w) ∧ w.toNat = p.2) ∧
  ∀ (s : State) (v : Word), s.busy = false →
    (∀ p ∈ [(RegName.seclen, 8), (.keylen, 7), (.candlen, 8), (.timeLo, 32), (.timeHi, 32), (.tsliceLo, 32),
      (.tsliceHi, 32), (.counterLo, 32), (.counterHi, 32), (.discLo, 32), (.discHi, 32)],
      (s.busWrite (offsetAddr p.1) v).readReg p.1 = BitVec.ofNat 32 (v.toNat % 2 ^ p.2) ∧
      (∀ n, n ≠ p.1 → (s.busWrite (offsetAddr p.1) v).readReg n = s.readReg n) ∧
      (s.busWrite (offsetAddr p.1) v).phase = s.phase ∧
      (s.busWrite (offsetAddr p.1) v).response = some (.write false)) ∧
    (∀ off ∈ [(0x000 : Addr), 0x014, 0x024, 0x028, 0x02C, 0x030, 0x060, 0x064, 0x0A0, 0x0A4, 0x0A8],
      s.busWrite off v = { s with response := some (.write false) })

/-- 20_memory R72: byte i of a buffer is in the word at its base offset + 4 floor(i/4), least significant lane first;
while BUSY = 0 a write of word k of a writable buffer stores its four lanes at bytes 4k to 4k+3, reads back, and changes
no other byte and no register. -/
def Obligations.BufferLanes : Prop :=
  (Buf.digest.base = 0x080 ∧ Buf.codestr.base = 0x0A0 ∧ Buf.cand.base = 0x0B0 ∧ Buf.secret.base = 0x100 ∧
    Buf.key.base = 0x180) ∧
  (∀ (s : State) (b : Buf) (k : Nat), 4 * k + 4 ≤ b.size →
    ∃ w, (s.busRead (BitVec.ofNat 12 (b.base + 4 * k))).response = some (.read false w) ∧
      w.toNat = (s.regs.mem.read (b.base + 4 * k + 3)).toNat * 2 ^ 24 +
        (s.regs.mem.read (b.base + 4 * k + 2)).toNat * 2 ^ 16 +
        (s.regs.mem.read (b.base + 4 * k + 1)).toNat * 2 ^ 8 + (s.regs.mem.read (b.base + 4 * k)).toNat) ∧
  ∀ (s : State) (b : Buf) (k : Nat) (v : Word), s.busy = false → s.regs.mem.wf = true → b ≠ .codestr →
    4 * k + 4 ≤ b.size →
    ∃ m, s.busWrite (BitVec.ofNat 12 (b.base + 4 * k)) v =
        { s with regs := { s.regs with mem := m }, response := some (.write false) } ∧
      (∀ j, j < 4 → m.read (b.base + 4 * k + j) = v.extractLsb' (8 * j) 8) ∧
      sameOutside s.regs.mem m (b.base + 4 * k) 4 ∧
      State.readReg { s with regs := { s.regs with mem := m } } (.bufWord b k) = v

/-- 10_state R26, with the fields of R25: a CFG write outside BUSY sets DIGITS and LOCK while LOCK = 0, and is ignored
without a flag while LOCK = 1. With BUSY = 1 and LOCK = 1 at once the write is ignored with WERR: the model's choice
between R26 and 20_memory R80 (log entry 16). -/
def Obligations.CfgLocks : Prop :=
  ∀ (s : State) (v : Word),
    (s.busy = false → s.regs.lock = false →
      s.busWrite 0x008 v =
        { s with
          regs := { s.regs with digits := v.extractLsb' 0 5, lock := v.getLsbD 31 }
          response := some (.write false) }) ∧
    (s.busy = false → s.regs.lock = true → s.busWrite 0x008 v = { s with response := some (.write false) }) ∧
    (s.busy = true → s.regs.lock = true →
      s.busWrite 0x008 v = { s with regs := { s.regs with werr := true }, response := some (.write false) })

/-- 10_state R26, "Only hard or soft reset clears LOCK": a step leaves a locked CFG as it is, whatever the step does,
unless the step is itself a reset: a pin turn other than one that leaves rst_n at 1, or the host's CTRL write with
SRST. -/
def Obligations.LockedCfgKeptByEveryStep : Prop :=
  ∀ s t : State, s.regs.lock = true → step s = .next t →
    (∀ level, s.nextTurn = .resetPin level → level = true ∧ s.rstN = true) →
    (s.nextTurn = .host → ∀ v rest, s.program = .wr 0x004 v :: rest → v.getLsbD 1 = false) →
    t.regs.lock = true ∧ t.regs.digits = s.regs.digits

/-- 10_state R24 and 60_exceptions R240: CTRL.IE is written while SRST is not, the soft reset wins over it, CTRL reads
IE alone, and irq = CTRL.IE & STATUS.DONE. -/
def Obligations.CtrlAndInterrupt : Prop :=
  ∀ (s : State) (v : Word),
    (v.getLsbD 1 = false →
      (s.busWrite 0x004 v).regs = { s.regs with ie := v.getLsbD 0 } ∧ (s.busWrite 0x004 v).phase = s.phase) ∧
    (v.getLsbD 1 = true → (s.busWrite 0x004 v).regs.ie = false) ∧
    (s.readReg .ctrl).toNat = s.regs.ie.toNat ∧
    (s.irq = true ↔ s.regs.ie = true ∧ s.regs.done = true)

/-- 10_state R28: the fields of a STATUS read, at their bits, with ERR as its code (60_exceptions R220), never above
6. -/
def Obligations.StatusFields : Prop :=
  ∀ s : State,
    (s.readReg .status).toNat =
      s.busy.toNat + 2 * s.regs.done.toNat + 4 * s.regs.matched.toNat + 8 * s.regs.werr.toNat +
        256 * (match s.regs.err with
          | .ok => 0 | .invalidSecretLength => 1 | .invalidSecretEncoding => 2 | .clockUnavailable => 3
          | .invalidDigits => 4 | .invalidKeyLength => 5 | .illegalCommand => 6)

/-- 30_encoding R108 with 20_memory R72 and 10_state R52: while BUSY = 0 the transactions of `wrbuf` leave the text in
the buffer, and those of `wr64` leave the value in the pair. -/
def Obligations.HostFormsStoreTheirValues : Prop :=
  (∀ (s : State) (b : Buf) (text : List Byte), s.busy = false → s.regs.mem.wf = true → b ≠ .codestr →
    text.length ≤ b.size →
    ((hostWrbuf b text).foldl State.hostOp s).regs.bytes b text.length = text) ∧
  (∀ (s : State) (v : DWord), s.busy = false →
    ((hostWr64 .timeLo .timeHi v).foldl State.hostOp s).regs.time = v ∧
    ((hostWr64 .tsliceLo .tsliceHi v).foldl State.hostOp s).regs.tslice = v ∧
    ((hostWr64 .counterLo .counterHi v).foldl State.hostOp s).regs.counter = v ∧
    ((hostWr64 .discLo .discHi v).foldl State.hostOp s).regs.disc = v)

/-! ## Reset -/

/-- 10_state R21 and R65, 70_reset R250 and R251: at reset every mapped word reads its reset value, the engine is IDLE,
irq is 0, and a CMD write is accepted at once. -/
def Obligations.ResetValues : Prop :=
  (∀ (off : Addr) (n : RegName), target off = some n →
    State.readReg State.reset n = if n = .id then 0x4F545045 else if n = .cfg then 6 else 0) ∧
  State.reset.phase = .idle ∧ State.reset.irq = false ∧
  ∀ w, (State.reset.busWrite 0x00C w).busy = true

/-- 70_reset R252 and R250: a CTRL write with SRST, also while BUSY, makes exactly the state change of a hard reset:
every register at its reset value, a pending command discarded, nothing committed. -/
def Obligations.SoftResetIsHardReset : Prop :=
  ∀ (s : State) (v : Word), v.getLsbD 1 = true →
    s.busWrite 0x004 v = { s with regs := State.reset.regs, phase := .idle, response := some (.write false) } ∧
    (s.busWrite 0x004 v).regs = (s.resetPinTurn false).regs ∧
    (s.busWrite 0x004 v).phase = (s.resetPinTurn false).phase ∧
    (s.resetPinTurn false).regs = State.reset.regs ∧ (s.resetPinTurn false).phase = .idle ∧
    (s.rstN = false → (s.resetPinTurn true).regs = State.reset.regs ∧ (s.resetPinTurn true).phase = .idle)

/-! ## Invariants and runs -/

/-- The state after reset meets every invariant below. -/
def Obligations.ResetMeetsInvariants : Prop := State.reset.kept = true

/-- Every step keeps the buffer memory canonical and inside the five buffers (10_state R21, R47 to R51). -/
def Obligations.StepKeepsBuffers : Prop :=
  ∀ s t : State, s.regs.buffersKept = true → step s = .next t → t.regs.buffersKept = true

/-- Every step keeps the pending command a decoding of a word, DONE at 0 while BUSY, and the snapshot equal to the
visible operand registers (10_state R56, 60_exceptions R235, 20_memory R80). -/
def Obligations.StepKeepsSnapshotEqualToRegisters : Prop :=
  ∀ s t : State, s.pendingKept = true → step s = .next t → t.pendingKept = true

/-- Every step keeps BINCODE at TRUNC with its top bit cleared, MATCH and ERRINFO in agreement with ERR, and ERRINFO
below 2^16 unless the error is IllegalCommand (10_state R31, R34, R40, 60_exceptions R221). -/
def Obligations.StepKeepsResultRegisters : Prop :=
  ∀ s t : State, s.regs.bincodeKept = true → s.regs.errorKept = true → step s = .next t →
    t.regs.bincodeKept = true ∧ t.regs.errorKept = true

/-- Every step keeps the block at reset while rst_n = 0 (70_reset R250). -/
def Obligations.StepKeepsReset : Prop :=
  ∀ s t : State, s.resetKept = true → step s = .next t → t.resetKept = true

/-- 60_exceptions R236, R237 and 70_reset R262 in the model: from a state with a pending command and no reset to come (no
pin turn to 0, no CTRL write with SRST), the command has completed after at most one step more than there are turns
listed. That the engine moves first when the list is used up is the model's form of the fairness (log entry 1). -/
def Obligations.PendingCommandCompletes : Prop :=
  ∀ s : State, s.busy = true → s.rstN = true → (∀ level, Turn.resetPin level ∈ s.turns → level = true) →
    (∀ v, HostOp.wr 0x004 v ∈ s.program → v.getLsbD 1 = false) →
    ∃ k t, k ≤ s.turns.length ∧ Host.Core.run Sys2Proof.core (k + 1) s = .next t ∧ t.phase = .idle ∧ t.regs.done = true

/-! ## The hash -/

/-- 41_hmac_sha1 R142 to R144: the round functions and constants, the compression as 80 rounds on (a, b, c, d, e) added
to the hash state, and SHA-1 as the compressions of the blocks of the padded message from the initial value, written most
significant byte first. -/
def Obligations.Sha1IsItsRoundsOverItsBlocks : Prop :=
  (∀ (t : Nat) (b c d : Word),
    (t < 20 → roundFunction t b c d = (b &&& c) ^^^ (~~~b &&& d) ∧ roundConstant t = 0x5A827999) ∧
    (20 ≤ t → t < 40 → roundFunction t b c d = b ^^^ c ^^^ d ∧ roundConstant t = 0x6ED9EBA1) ∧
    (40 ≤ t → t < 60 → roundFunction t b c d = (b &&& c) ^^^ (b &&& d) ^^^ (c &&& d) ∧
      roundConstant t = 0x8F1BBCDC) ∧
    (60 ≤ t → t < 80 → roundFunction t b c d = b ^^^ c ^^^ d ∧ roundConstant t = 0xCA62C1D6)) ∧
  (∀ (h : HashState) (blk : List Byte) (a b c d e : Nat → Word),
    a 0 = h.h0 → b 0 = h.h1 → c 0 = h.h2 → d 0 = h.h3 → e 0 = h.h4 →
    (∀ t, t < 80 →
      a (t + 1) = (a t).rotateLeft 5 + roundFunction t (b t) (c t) (d t) + e t + roundConstant t +
        (schedule blk).getD t 0 ∧
      b (t + 1) = a t ∧ c (t + 1) = (b t).rotateLeft 30 ∧ d (t + 1) = c t ∧ e (t + 1) = d t) →
    compress h blk = ⟨h.h0 + a 80, h.h1 + b 80, h.h2 + c 80, h.h3 + d 80, h.h4 + e 80⟩) ∧
  ∀ (msg : List Byte) (H : Nat → HashState),
    H 0 = ⟨0x67452301, 0xEFCDAB89, 0x98BADCFE, 0x10325476, 0xC3D2E1F0⟩ →
    (∀ i, i < (sha1Pad msg).length / 64 → H (i + 1) = compress (H i) (((sha1Pad msg).drop (64 * i)).take 64)) →
    let last := H ((sha1Pad msg).length / 64)
    (sha1 msg).length = 20 ∧
    ∀ j, j < 4 →
      (sha1 msg).getD j 0 = last.h0.extractLsb' (24 - 8 * j) 8 ∧
      (sha1 msg).getD (4 + j) 0 = last.h1.extractLsb' (24 - 8 * j) 8 ∧
      (sha1 msg).getD (8 + j) 0 = last.h2.extractLsb' (24 - 8 * j) 8 ∧
      (sha1 msg).getD (12 + j) 0 = last.h3.extractLsb' (24 - 8 * j) 8 ∧
      (sha1 msg).getD (16 + j) 0 = last.h4.extractLsb' (24 - 8 * j) 8
end

