-- ==== Sys2Proof/Laws/Memory.lean ====
section
/-! SUPPORT. The laws of the buffer memory: read after write, and the canonical form. -/

namespace Sys2Proof.Machine

@[simp] theorem Memory.read_nil (a : Nat) : Memory.read [] a = 0 := rfl

theorem Memory.read_cons (k : Nat) (x : Byte) (m : Memory) (a : Nat) :
    Memory.read ((k, x) :: m) a = if k = a then x else Memory.read m a := rfl

@[simp] theorem Memory.wfFrom_nil (lo : Nat) : Memory.wfFrom lo [] = true := rfl

theorem Memory.wfFrom_cons (lo k : Nat) (x : Byte) (m : Memory) :
    Memory.wfFrom lo ((k, x) :: m) = true ↔ lo ≤ k ∧ x ≠ 0 ∧ Memory.wfFrom (k + 1) m = true := by
  simp [Memory.wfFrom, and_assoc]

theorem Memory.wfFrom_mono {m : Memory} {lo lo' : Nat} (h : m.wfFrom lo = true) (hle : lo' ≤ lo) :
    m.wfFrom lo' = true := by
  cases m with
  | nil => rfl
  | cons c m =>
    obtain ⟨k, x⟩ := c
    rw [Memory.wfFrom_cons] at h ⊢
    exact ⟨hle.trans h.1, h.2⟩

theorem Memory.wf_of_wfFrom {m : Memory} {lo : Nat} (h : m.wfFrom lo = true) : m.wf = true :=
  Memory.wfFrom_mono h (Nat.zero_le lo)

/-- Nothing is listed below the bound of the canonical form. -/
theorem Memory.read_below {m : Memory} {lo a : Nat} (h : m.wfFrom lo = true) (ha : a < lo) : m.read a = 0 := by
  induction m generalizing lo with
  | nil => rfl
  | cons c m ih =>
    obtain ⟨k, x⟩ := c
    rw [Memory.wfFrom_cons] at h
    rw [Memory.read_cons, if_neg (by omega)]
    exact ih h.2.2 (by omega)

/-- A write keeps the canonical form. -/
theorem Memory.wfFrom_write {m : Memory} {lo a : Nat} (b : Byte) (h : m.wfFrom lo = true) (ha : lo ≤ a) :
    (m.write a b).wfFrom lo = true := by
  induction m generalizing lo with
  | nil =>
    rw [Memory.write]
    split
    · rfl
    · rw [Memory.wfFrom_cons]
      exact ⟨ha, ‹_›, rfl⟩
  | cons c m ih =>
    obtain ⟨k, x⟩ := c
    have h' := h
    rw [Memory.wfFrom_cons] at h'
    obtain ⟨hlo, hx, hm⟩ := h'
    rw [Memory.write]
    split
    · split
      · exact h
      · rw [Memory.wfFrom_cons, Memory.wfFrom_cons]
        exact ⟨ha, ‹_›, by omega, hx, hm⟩
    · split
      · split
        · exact Memory.wfFrom_mono hm (by omega)
        · rw [Memory.wfFrom_cons]
          subst a
          exact ⟨ha, ‹_›, hm⟩
      · rw [Memory.wfFrom_cons]
        exact ⟨hlo, hx, ih hm (by omega)⟩

theorem Memory.wf_write {m : Memory} (a : Nat) (b : Byte) (h : m.wf = true) : (m.write a b).wf = true :=
  Memory.wfFrom_write b h (Nat.zero_le a)

theorem Memory.wf_writeBytes {m : Memory} (a : Nat) (bs : List Byte) (h : m.wf = true) :
    (m.writeBytes a bs).wf = true := by
  induction bs generalizing m a with
  | nil => exact h
  | cons b bs ih => exact ih (a + 1) (Memory.wf_write a b h)

@[simp] theorem Memory.writeOption_none (m : Memory) (b : Buf) : m.writeOption b none = m := rfl

@[simp] theorem Memory.writeOption_some (m : Memory) (b : Buf) (bs : List Byte) :
    m.writeOption b (some bs) = m.writeBytes b.base bs := rfl

theorem Memory.wf_writeOption {m : Memory} (b : Buf) (o : Option (List Byte)) (h : m.wf = true) :
    (m.writeOption b o).wf = true := by
  cases o with
  | none => exact h
  | some bs => exact Memory.wf_writeBytes b.base bs h

/-- A read at another offset is unchanged by a write. -/
theorem Memory.read_write_ne (m : Memory) {a a' : Nat} (b : Byte) (h : a' ≠ a) :
    (m.write a b).read a' = m.read a' := by
  induction m with
  | nil =>
    rw [Memory.write]
    split
    · rfl
    · rw [Memory.read_cons, if_neg h.symm]
  | cons c m ih =>
    obtain ⟨k, x⟩ := c
    rw [Memory.write]
    split
    · split
      · rfl
      · rw [Memory.read_cons, if_neg h.symm]
    · split
      · subst a
        split
        · rw [Memory.read_cons, if_neg h.symm]
        · rw [Memory.read_cons, Memory.read_cons, if_neg h.symm, if_neg h.symm]
      · rw [Memory.read_cons, Memory.read_cons, ih]

theorem Memory.read_write_same_of_wfFrom {m : Memory} {lo : Nat} (a : Nat) (b : Byte) (h : m.wfFrom lo = true) :
    (m.write a b).read a = b := by
  induction m generalizing lo with
  | nil =>
    rw [Memory.write]
    split
    · exact (‹b = 0› : b = 0).symm
    · rw [Memory.read_cons, if_pos rfl]
  | cons c m ih =>
    obtain ⟨k, x⟩ := c
    have h' := h
    rw [Memory.wfFrom_cons] at h'
    rw [Memory.write]
    split
    · split
      · subst b
        rw [Memory.read_cons, if_neg (by omega)]
        exact Memory.read_below h'.2.2 (by omega)
      · rw [Memory.read_cons, if_pos rfl]
    · split
      · subst a
        split
        · subst b
          exact Memory.read_below h'.2.2 (by omega)
        · rw [Memory.read_cons, if_pos rfl]
      · rw [Memory.read_cons, if_neg (by omega)]
        exact ih h'.2.2

/-- A read after a write to the same offset gives the byte written. -/
theorem Memory.read_write_same {m : Memory} (a : Nat) (b : Byte) (h : m.wf = true) : (m.write a b).read a = b :=
  Memory.read_write_same_of_wfFrom a b h

/-- A read outside the stored bytes is unchanged. -/
theorem Memory.read_writeBytes_outside (m : Memory) (a : Nat) (bs : List Byte) {a' : Nat}
    (h : a' < a ∨ a + bs.length ≤ a') : (m.writeBytes a bs).read a' = m.read a' := by
  induction bs generalizing m a with
  | nil => rfl
  | cons b bs ih =>
    rw [List.length_cons] at h
    rw [Memory.writeBytes, ih _ _ (by omega), Memory.read_write_ne _ _ (by omega)]

/-- A read of a stored byte gives it. -/
theorem Memory.read_writeBytes_inside {m : Memory} (a : Nat) (bs : List Byte) (i : Nat) (hi : i < bs.length)
    (h : m.wf = true) : (m.writeBytes a bs).read (a + i) = bs[i] := by
  induction bs generalizing m a i with
  | nil => exact absurd hi (by simp)
  | cons b bs ih =>
    rw [Memory.writeBytes]
    cases i with
    | zero =>
      rw [Memory.read_writeBytes_outside _ _ _ (by omega)]
      exact Memory.read_write_same a b h
    | succ i =>
      have := ih (a + 1) i (by simpa using hi) (Memory.wf_write a b h)
      rw [Nat.add_right_comm, Nat.add_assoc] at this
      simpa [Nat.add_comm 1 i] using this

@[simp] theorem Memory.length_readBytes (m : Memory) (a n : Nat) : (m.readBytes a n).length = n := by
  induction n generalizing a with
  | zero => rfl
  | succ n ih => simp [Memory.readBytes, ih]

theorem Memory.getElem_readBytes (m : Memory) (a n i : Nat) (h : i < (m.readBytes a n).length) :
    (m.readBytes a n)[i] = m.read (a + i) := by
  induction n generalizing a i with
  | zero => simp at h
  | succ n ih =>
    cases i with
    | zero => rfl
    | succ i =>
      simp only [Memory.readBytes, List.getElem_cons_succ]
      rw [ih (a + 1) i (by simpa using h)]
      congr 1
      omega

/-- Reading back what was stored. -/
theorem Memory.readBytes_writeBytes {m : Memory} (a : Nat) (bs : List Byte) (h : m.wf = true) :
    (m.writeBytes a bs).readBytes a bs.length = bs := by
  apply List.ext_getElem (by simp)
  intro i hi hi'
  rw [Memory.getElem_readBytes, Memory.read_writeBytes_inside a bs i hi' h]

/-- Bytes read outside the stored ones are unchanged. -/
theorem Memory.readBytes_writeBytes_outside (m : Memory) (a : Nat) (bs : List Byte) (a' n : Nat)
    (h : a' + n ≤ a ∨ a + bs.length ≤ a') : (m.writeBytes a bs).readBytes a' n = m.readBytes a' n := by
  apply List.ext_getElem (by simp)
  intro i hi hi'
  rw [Memory.length_readBytes] at hi'
  rw [Memory.getElem_readBytes, Memory.getElem_readBytes, Memory.read_writeBytes_outside _ _ _ (by omega)]

theorem Memory.ext_of_wfFrom {m m' : Memory} {lo lo' : Nat} (h : m.wfFrom lo = true) (h' : m'.wfFrom lo' = true)
    (heq : ∀ a, m.read a = m'.read a) : m = m' := by
  induction m generalizing m' lo lo' with
  | nil =>
    cases m' with
    | nil => rfl
    | cons c m' =>
      obtain ⟨k, x⟩ := c
      rw [Memory.wfFrom_cons] at h'
      have := heq k
      rw [Memory.read_cons, if_pos rfl] at this
      exact absurd this.symm h'.2.1
  | cons c m ih =>
    obtain ⟨k, x⟩ := c
    rw [Memory.wfFrom_cons] at h
    cases m' with
    | nil =>
      have := heq k
      rw [Memory.read_cons, if_pos rfl] at this
      exact absurd this h.2.1
    | cons c' m' =>
      obtain ⟨k', x'⟩ := c'
      rw [Memory.wfFrom_cons] at h'
      have hk : k = k' := by
        rcases lt_trichotomy k k' with hlt | rfl | hlt
        · have := heq k
          rw [Memory.read_cons, if_pos rfl, Memory.read_cons, if_neg (by omega),
            Memory.read_below h'.2.2 (by omega)] at this
          exact absurd this h.2.1
        · rfl
        · have := heq k'
          rw [Memory.read_cons, if_neg (by omega), Memory.read_cons, if_pos rfl,
            Memory.read_below h.2.2 (by omega)] at this
          exact absurd this.symm h'.2.1
      subst hk
      have hx : x = x' := by simpa [Memory.read_cons] using heq k
      subst hx
      have : m = m' := by
        refine ih h.2.2 h'.2.2 fun a => ?_
        by_cases ha : k = a
        · subst ha
          rw [Memory.read_below h.2.2 (by omega), Memory.read_below h'.2.2 (by omega)]
        · have := heq a
          rwa [Memory.read_cons, if_neg ha, Memory.read_cons, if_neg ha] at this
      rw [this]

/-- Canonical memories that read the same are the same. -/
theorem Memory.ext_of_wf {m m' : Memory} (h : m.wf = true) (h' : m'.wf = true)
    (heq : ∀ a, m.read a = m'.read a) : m = m' :=
  Memory.ext_of_wfFrom h h' heq

/-- A write lists no offset but the one written and those listed before. -/
theorem Memory.all_write {m : Memory} {p : Nat → Bool} (a : Nat) (b : Byte) (ha : p a = true)
    (h : (m.all fun c => p c.1) = true) : ((m.write a b).all fun c => p c.1) = true := by
  induction m with
  | nil =>
    rw [Memory.write]
    split
    · rfl
    · simp [ha]
  | cons c m ih =>
    obtain ⟨k, x⟩ := c
    have h' := h
    rw [List.all_cons, Bool.and_eq_true] at h'
    rw [Memory.write]
    split
    · split
      · exact h
      · rw [List.all_cons, ha, h]; rfl
    · split
      · split
        · exact h'.2
        · rw [List.all_cons, ha, h'.2]; rfl
      · rw [List.all_cons, ih h'.2, h'.1]; rfl

theorem Memory.all_writeBytes {m : Memory} {p : Nat → Bool} (a : Nat) (bs : List Byte)
    (ha : ∀ i, i < bs.length → p (a + i) = true) (h : (m.all fun c => p c.1) = true) :
    ((m.writeBytes a bs).all fun c => p c.1) = true := by
  induction bs generalizing m a with
  | nil => exact h
  | cons b bs ih =>
    refine ih (a + 1) (fun i hi => ?_) (Memory.all_write a b (by simpa using ha 0 (by simp)) h)
    have := ha (i + 1) (by simpa using hi)
    rwa [Nat.add_right_comm]

end Sys2Proof.Machine
end

