-- ==== Sys2Proof/Laws/State.lean ====
section
/-! SUPPORT. One lemma per field per update of the registers and of the state, so that no later proof unfolds a record
update. -/

namespace Sys2Proof.Machine


section
variable (r : Regs) (v : Word)

@[simp] theorem Regs.clearStatus_ie : (r.clearStatus v).ie = r.ie := rfl
@[simp] theorem Regs.clearStatus_digits : (r.clearStatus v).digits = r.digits := rfl
@[simp] theorem Regs.clearStatus_lock : (r.clearStatus v).lock = r.lock := rfl
@[simp] theorem Regs.clearStatus_done : (r.clearStatus v).done = (r.done && !bitOf v 1) := rfl
@[simp] theorem Regs.clearStatus_matched : (r.clearStatus v).matched = r.matched := rfl
@[simp] theorem Regs.clearStatus_werr : (r.clearStatus v).werr = (r.werr && !bitOf v 3) := rfl
@[simp] theorem Regs.clearStatus_err : (r.clearStatus v).err = r.err := rfl
@[simp] theorem Regs.clearStatus_errinfo : (r.clearStatus v).errinfo = r.errinfo := rfl
@[simp] theorem Regs.clearStatus_seclen : (r.clearStatus v).seclen = r.seclen := rfl
@[simp] theorem Regs.clearStatus_keylen : (r.clearStatus v).keylen = r.keylen := rfl
@[simp] theorem Regs.clearStatus_candlen : (r.clearStatus v).candlen = r.candlen := rfl
@[simp] theorem Regs.clearStatus_offset : (r.clearStatus v).offset = r.offset := rfl
@[simp] theorem Regs.clearStatus_trunc : (r.clearStatus v).trunc = r.trunc := rfl
@[simp] theorem Regs.clearStatus_bincode : (r.clearStatus v).bincode = r.bincode := rfl
@[simp] theorem Regs.clearStatus_code : (r.clearStatus v).code = r.code := rfl
@[simp] theorem Regs.clearStatus_timeLo : (r.clearStatus v).timeLo = r.timeLo := rfl
@[simp] theorem Regs.clearStatus_timeHi : (r.clearStatus v).timeHi = r.timeHi := rfl
@[simp] theorem Regs.clearStatus_tsliceLo : (r.clearStatus v).tsliceLo = r.tsliceLo := rfl
@[simp] theorem Regs.clearStatus_tsliceHi : (r.clearStatus v).tsliceHi = r.tsliceHi := rfl
@[simp] theorem Regs.clearStatus_counterLo : (r.clearStatus v).counterLo = r.counterLo := rfl
@[simp] theorem Regs.clearStatus_counterHi : (r.clearStatus v).counterHi = r.counterHi := rfl
@[simp] theorem Regs.clearStatus_discLo : (r.clearStatus v).discLo = r.discLo := rfl
@[simp] theorem Regs.clearStatus_discHi : (r.clearStatus v).discHi = r.discHi := rfl
@[simp] theorem Regs.clearStatus_matchctrLo : (r.clearStatus v).matchctrLo = r.matchctrLo := rfl
@[simp] theorem Regs.clearStatus_matchctrHi : (r.clearStatus v).matchctrHi = r.matchctrHi := rfl
@[simp] theorem Regs.clearStatus_mem : (r.clearStatus v).mem = r.mem := rfl

end

section
variable (r : Regs)

@[simp] theorem Regs.flagsAtIssue_ie : (r.flagsAtIssue).ie = r.ie := rfl
@[simp] theorem Regs.flagsAtIssue_digits : (r.flagsAtIssue).digits = r.digits := rfl
@[simp] theorem Regs.flagsAtIssue_lock : (r.flagsAtIssue).lock = r.lock := rfl
@[simp] theorem Regs.flagsAtIssue_done : (r.flagsAtIssue).done = false := rfl
@[simp] theorem Regs.flagsAtIssue_matched : (r.flagsAtIssue).matched = r.matched := rfl
@[simp] theorem Regs.flagsAtIssue_werr : (r.flagsAtIssue).werr = r.werr := rfl
@[simp] theorem Regs.flagsAtIssue_err : (r.flagsAtIssue).err = r.err := rfl
@[simp] theorem Regs.flagsAtIssue_errinfo : (r.flagsAtIssue).errinfo = r.errinfo := rfl
@[simp] theorem Regs.flagsAtIssue_seclen : (r.flagsAtIssue).seclen = r.seclen := rfl
@[simp] theorem Regs.flagsAtIssue_keylen : (r.flagsAtIssue).keylen = r.keylen := rfl
@[simp] theorem Regs.flagsAtIssue_candlen : (r.flagsAtIssue).candlen = r.candlen := rfl
@[simp] theorem Regs.flagsAtIssue_offset : (r.flagsAtIssue).offset = r.offset := rfl
@[simp] theorem Regs.flagsAtIssue_trunc : (r.flagsAtIssue).trunc = r.trunc := rfl
@[simp] theorem Regs.flagsAtIssue_bincode : (r.flagsAtIssue).bincode = r.bincode := rfl
@[simp] theorem Regs.flagsAtIssue_code : (r.flagsAtIssue).code = r.code := rfl
@[simp] theorem Regs.flagsAtIssue_timeLo : (r.flagsAtIssue).timeLo = r.timeLo := rfl
@[simp] theorem Regs.flagsAtIssue_timeHi : (r.flagsAtIssue).timeHi = r.timeHi := rfl
@[simp] theorem Regs.flagsAtIssue_tsliceLo : (r.flagsAtIssue).tsliceLo = r.tsliceLo := rfl
@[simp] theorem Regs.flagsAtIssue_tsliceHi : (r.flagsAtIssue).tsliceHi = r.tsliceHi := rfl
@[simp] theorem Regs.flagsAtIssue_counterLo : (r.flagsAtIssue).counterLo = r.counterLo := rfl
@[simp] theorem Regs.flagsAtIssue_counterHi : (r.flagsAtIssue).counterHi = r.counterHi := rfl
@[simp] theorem Regs.flagsAtIssue_discLo : (r.flagsAtIssue).discLo = r.discLo := rfl
@[simp] theorem Regs.flagsAtIssue_discHi : (r.flagsAtIssue).discHi = r.discHi := rfl
@[simp] theorem Regs.flagsAtIssue_matchctrLo : (r.flagsAtIssue).matchctrLo = r.matchctrLo := rfl
@[simp] theorem Regs.flagsAtIssue_matchctrHi : (r.flagsAtIssue).matchctrHi = r.matchctrHi := rfl
@[simp] theorem Regs.flagsAtIssue_mem : (r.flagsAtIssue).mem = r.mem := rfl

end

section
variable (r : Regs) (e : CmdError)

@[simp] theorem Regs.flagsAtError_ie : (r.flagsAtError e).ie = r.ie := rfl
@[simp] theorem Regs.flagsAtError_digits : (r.flagsAtError e).digits = r.digits := rfl
@[simp] theorem Regs.flagsAtError_lock : (r.flagsAtError e).lock = r.lock := rfl
@[simp] theorem Regs.flagsAtError_done : (r.flagsAtError e).done = true := rfl
@[simp] theorem Regs.flagsAtError_matched : (r.flagsAtError e).matched = false := rfl
@[simp] theorem Regs.flagsAtError_werr : (r.flagsAtError e).werr = r.werr := rfl
@[simp] theorem Regs.flagsAtError_err : (r.flagsAtError e).err = e.code := rfl
@[simp] theorem Regs.flagsAtError_errinfo : (r.flagsAtError e).errinfo = e.info := rfl
@[simp] theorem Regs.flagsAtError_seclen : (r.flagsAtError e).seclen = r.seclen := rfl
@[simp] theorem Regs.flagsAtError_keylen : (r.flagsAtError e).keylen = r.keylen := rfl
@[simp] theorem Regs.flagsAtError_candlen : (r.flagsAtError e).candlen = r.candlen := rfl
@[simp] theorem Regs.flagsAtError_offset : (r.flagsAtError e).offset = r.offset := rfl
@[simp] theorem Regs.flagsAtError_trunc : (r.flagsAtError e).trunc = r.trunc := rfl
@[simp] theorem Regs.flagsAtError_bincode : (r.flagsAtError e).bincode = r.bincode := rfl
@[simp] theorem Regs.flagsAtError_code : (r.flagsAtError e).code = r.code := rfl
@[simp] theorem Regs.flagsAtError_timeLo : (r.flagsAtError e).timeLo = r.timeLo := rfl
@[simp] theorem Regs.flagsAtError_timeHi : (r.flagsAtError e).timeHi = r.timeHi := rfl
@[simp] theorem Regs.flagsAtError_tsliceLo : (r.flagsAtError e).tsliceLo = r.tsliceLo := rfl
@[simp] theorem Regs.flagsAtError_tsliceHi : (r.flagsAtError e).tsliceHi = r.tsliceHi := rfl
@[simp] theorem Regs.flagsAtError_counterLo : (r.flagsAtError e).counterLo = r.counterLo := rfl
@[simp] theorem Regs.flagsAtError_counterHi : (r.flagsAtError e).counterHi = r.counterHi := rfl
@[simp] theorem Regs.flagsAtError_discLo : (r.flagsAtError e).discLo = r.discLo := rfl
@[simp] theorem Regs.flagsAtError_discHi : (r.flagsAtError e).discHi = r.discHi := rfl
@[simp] theorem Regs.flagsAtError_matchctrLo : (r.flagsAtError e).matchctrLo = r.matchctrLo := rfl
@[simp] theorem Regs.flagsAtError_matchctrHi : (r.flagsAtError e).matchctrHi = r.matchctrHi := rfl
@[simp] theorem Regs.flagsAtError_mem : (r.flagsAtError e).mem = r.mem := rfl

end

section
variable (r : Regs) (m : Bool)

@[simp] theorem Regs.flagsAtSuccess_ie : (r.flagsAtSuccess m).ie = r.ie := rfl
@[simp] theorem Regs.flagsAtSuccess_digits : (r.flagsAtSuccess m).digits = r.digits := rfl
@[simp] theorem Regs.flagsAtSuccess_lock : (r.flagsAtSuccess m).lock = r.lock := rfl
@[simp] theorem Regs.flagsAtSuccess_done : (r.flagsAtSuccess m).done = true := rfl
@[simp] theorem Regs.flagsAtSuccess_matched : (r.flagsAtSuccess m).matched = m := rfl
@[simp] theorem Regs.flagsAtSuccess_werr : (r.flagsAtSuccess m).werr = r.werr := rfl
@[simp] theorem Regs.flagsAtSuccess_err : (r.flagsAtSuccess m).err = .ok := rfl
@[simp] theorem Regs.flagsAtSuccess_errinfo : (r.flagsAtSuccess m).errinfo = 0 := rfl
@[simp] theorem Regs.flagsAtSuccess_seclen : (r.flagsAtSuccess m).seclen = r.seclen := rfl
@[simp] theorem Regs.flagsAtSuccess_keylen : (r.flagsAtSuccess m).keylen = r.keylen := rfl
@[simp] theorem Regs.flagsAtSuccess_candlen : (r.flagsAtSuccess m).candlen = r.candlen := rfl
@[simp] theorem Regs.flagsAtSuccess_offset : (r.flagsAtSuccess m).offset = r.offset := rfl
@[simp] theorem Regs.flagsAtSuccess_trunc : (r.flagsAtSuccess m).trunc = r.trunc := rfl
@[simp] theorem Regs.flagsAtSuccess_bincode : (r.flagsAtSuccess m).bincode = r.bincode := rfl
@[simp] theorem Regs.flagsAtSuccess_code : (r.flagsAtSuccess m).code = r.code := rfl
@[simp] theorem Regs.flagsAtSuccess_timeLo : (r.flagsAtSuccess m).timeLo = r.timeLo := rfl
@[simp] theorem Regs.flagsAtSuccess_timeHi : (r.flagsAtSuccess m).timeHi = r.timeHi := rfl
@[simp] theorem Regs.flagsAtSuccess_tsliceLo : (r.flagsAtSuccess m).tsliceLo = r.tsliceLo := rfl
@[simp] theorem Regs.flagsAtSuccess_tsliceHi : (r.flagsAtSuccess m).tsliceHi = r.tsliceHi := rfl
@[simp] theorem Regs.flagsAtSuccess_counterLo : (r.flagsAtSuccess m).counterLo = r.counterLo := rfl
@[simp] theorem Regs.flagsAtSuccess_counterHi : (r.flagsAtSuccess m).counterHi = r.counterHi := rfl
@[simp] theorem Regs.flagsAtSuccess_discLo : (r.flagsAtSuccess m).discLo = r.discLo := rfl
@[simp] theorem Regs.flagsAtSuccess_discHi : (r.flagsAtSuccess m).discHi = r.discHi := rfl
@[simp] theorem Regs.flagsAtSuccess_matchctrLo : (r.flagsAtSuccess m).matchctrLo = r.matchctrLo := rfl
@[simp] theorem Regs.flagsAtSuccess_matchctrHi : (r.flagsAtSuccess m).matchctrHi = r.matchctrHi := rfl
@[simp] theorem Regs.flagsAtSuccess_mem : (r.flagsAtSuccess m).mem = r.mem := rfl

end

section
variable (r : Regs)

@[simp] theorem Regs.flagsAtIgnoredWrite_ie : (r.flagsAtIgnoredWrite).ie = r.ie := rfl
@[simp] theorem Regs.flagsAtIgnoredWrite_digits : (r.flagsAtIgnoredWrite).digits = r.digits := rfl
@[simp] theorem Regs.flagsAtIgnoredWrite_lock : (r.flagsAtIgnoredWrite).lock = r.lock := rfl
@[simp] theorem Regs.flagsAtIgnoredWrite_done : (r.flagsAtIgnoredWrite).done = r.done := rfl
@[simp] theorem Regs.flagsAtIgnoredWrite_matched : (r.flagsAtIgnoredWrite).matched = r.matched := rfl
@[simp] theorem Regs.flagsAtIgnoredWrite_werr : (r.flagsAtIgnoredWrite).werr = true := rfl
@[simp] theorem Regs.flagsAtIgnoredWrite_err : (r.flagsAtIgnoredWrite).err = r.err := rfl
@[simp] theorem Regs.flagsAtIgnoredWrite_errinfo : (r.flagsAtIgnoredWrite).errinfo = r.errinfo := rfl
@[simp] theorem Regs.flagsAtIgnoredWrite_seclen : (r.flagsAtIgnoredWrite).seclen = r.seclen := rfl
@[simp] theorem Regs.flagsAtIgnoredWrite_keylen : (r.flagsAtIgnoredWrite).keylen = r.keylen := rfl
@[simp] theorem Regs.flagsAtIgnoredWrite_candlen : (r.flagsAtIgnoredWrite).candlen = r.candlen := rfl
@[simp] theorem Regs.flagsAtIgnoredWrite_offset : (r.flagsAtIgnoredWrite).offset = r.offset := rfl
@[simp] theorem Regs.flagsAtIgnoredWrite_trunc : (r.flagsAtIgnoredWrite).trunc = r.trunc := rfl
@[simp] theorem Regs.flagsAtIgnoredWrite_bincode : (r.flagsAtIgnoredWrite).bincode = r.bincode := rfl
@[simp] theorem Regs.flagsAtIgnoredWrite_code : (r.flagsAtIgnoredWrite).code = r.code := rfl
@[simp] theorem Regs.flagsAtIgnoredWrite_timeLo : (r.flagsAtIgnoredWrite).timeLo = r.timeLo := rfl
@[simp] theorem Regs.flagsAtIgnoredWrite_timeHi : (r.flagsAtIgnoredWrite).timeHi = r.timeHi := rfl
@[simp] theorem Regs.flagsAtIgnoredWrite_tsliceLo : (r.flagsAtIgnoredWrite).tsliceLo = r.tsliceLo := rfl
@[simp] theorem Regs.flagsAtIgnoredWrite_tsliceHi : (r.flagsAtIgnoredWrite).tsliceHi = r.tsliceHi := rfl
@[simp] theorem Regs.flagsAtIgnoredWrite_counterLo : (r.flagsAtIgnoredWrite).counterLo = r.counterLo := rfl
@[simp] theorem Regs.flagsAtIgnoredWrite_counterHi : (r.flagsAtIgnoredWrite).counterHi = r.counterHi := rfl
@[simp] theorem Regs.flagsAtIgnoredWrite_discLo : (r.flagsAtIgnoredWrite).discLo = r.discLo := rfl
@[simp] theorem Regs.flagsAtIgnoredWrite_discHi : (r.flagsAtIgnoredWrite).discHi = r.discHi := rfl
@[simp] theorem Regs.flagsAtIgnoredWrite_matchctrLo : (r.flagsAtIgnoredWrite).matchctrLo = r.matchctrLo := rfl
@[simp] theorem Regs.flagsAtIgnoredWrite_matchctrHi : (r.flagsAtIgnoredWrite).matchctrHi = r.matchctrHi := rfl
@[simp] theorem Regs.flagsAtIgnoredWrite_mem : (r.flagsAtIgnoredWrite).mem = r.mem := rfl

end

section
variable (r : Regs) (c : Commit)

@[simp] theorem Regs.commit_ie : (r.commit c).ie = r.ie := rfl
@[simp] theorem Regs.commit_digits : (r.commit c).digits = r.digits := rfl
@[simp] theorem Regs.commit_lock : (r.commit c).lock = r.lock := rfl
@[simp] theorem Regs.commit_done : (r.commit c).done = r.done := rfl
@[simp] theorem Regs.commit_matched : (r.commit c).matched = r.matched := rfl
@[simp] theorem Regs.commit_werr : (r.commit c).werr = r.werr := rfl
@[simp] theorem Regs.commit_err : (r.commit c).err = r.err := rfl
@[simp] theorem Regs.commit_errinfo : (r.commit c).errinfo = r.errinfo := rfl
@[simp] theorem Regs.commit_seclen : (r.commit c).seclen = r.seclen := rfl
@[simp] theorem Regs.commit_keylen : (r.commit c).keylen = c.keylen.getD r.keylen := rfl
@[simp] theorem Regs.commit_candlen : (r.commit c).candlen = r.candlen := rfl
@[simp] theorem Regs.commit_offset : (r.commit c).offset = (c.code.map TruncResult.offset).getD r.offset := rfl
@[simp] theorem Regs.commit_trunc : (r.commit c).trunc = (c.code.map TruncResult.trunc).getD r.trunc := rfl
@[simp] theorem Regs.commit_bincode : (r.commit c).bincode = (c.code.map TruncResult.bincode).getD r.bincode := rfl
@[simp] theorem Regs.commit_code : (r.commit c).code = (c.code.map TruncResult.code).getD r.code := rfl
@[simp] theorem Regs.commit_timeLo : (r.commit c).timeLo = r.timeLo := rfl
@[simp] theorem Regs.commit_timeHi : (r.commit c).timeHi = r.timeHi := rfl
@[simp] theorem Regs.commit_tsliceLo : (r.commit c).tsliceLo = r.tsliceLo := rfl
@[simp] theorem Regs.commit_tsliceHi : (r.commit c).tsliceHi = r.tsliceHi := rfl
@[simp] theorem Regs.commit_counterLo : (r.commit c).counterLo = (c.counter.map loHalf).getD r.counterLo := rfl
@[simp] theorem Regs.commit_counterHi : (r.commit c).counterHi = (c.counter.map hiHalf).getD r.counterHi := rfl
@[simp] theorem Regs.commit_discLo : (r.commit c).discLo = r.discLo := rfl
@[simp] theorem Regs.commit_discHi : (r.commit c).discHi = r.discHi := rfl
@[simp] theorem Regs.commit_matchctrLo : (r.commit c).matchctrLo = (c.matchctr.map loHalf).getD r.matchctrLo := rfl
@[simp] theorem Regs.commit_matchctrHi : (r.commit c).matchctrHi = (c.matchctr.map hiHalf).getD r.matchctrHi := rfl
@[simp] theorem Regs.commit_mem :
    (r.commit c).mem = ((r.mem.writeOption .key c.key).writeOption .digest c.digest).writeOption .codestr
      (c.code.map TruncResult.str) := rfl

end

section
variable (s : State) (o : RunOutcome)

@[simp] theorem State.complete_regs : (s.complete o).regs = s.regs.complete o := rfl
@[simp] theorem State.complete_phase : (s.complete o).phase = .idle := rfl
@[simp] theorem State.complete_rstN : (s.complete o).rstN = s.rstN := rfl
@[simp] theorem State.complete_wc : (s.complete o).wc = s.wc := rfl
@[simp] theorem State.complete_response : (s.complete o).response = s.response := rfl
@[simp] theorem State.complete_program : (s.complete o).program = s.program := rfl
@[simp] theorem State.complete_turns : (s.complete o).turns = s.turns := rfl

end

section
variable (s : State) (w : Word)

@[simp] theorem State.issue_regs : (s.issue w).regs = s.regs.flagsAtIssue := rfl
@[simp] theorem State.issue_phase : (s.issue w).phase = .pending (decodeWord w) s.regs s.wc := rfl
@[simp] theorem State.issue_rstN : (s.issue w).rstN = s.rstN := rfl
@[simp] theorem State.issue_wc : (s.issue w).wc = s.wc := rfl
@[simp] theorem State.issue_response : (s.issue w).response = s.response := rfl
@[simp] theorem State.issue_program : (s.issue w).program = s.program := rfl
@[simp] theorem State.issue_turns : (s.issue w).turns = s.turns := rfl

end

section
variable (s : State)

@[simp] theorem State.blockReset_regs : (s.blockReset).regs = Regs.reset := rfl
@[simp] theorem State.blockReset_phase : (s.blockReset).phase = .idle := rfl
@[simp] theorem State.blockReset_rstN : (s.blockReset).rstN = s.rstN := rfl
@[simp] theorem State.blockReset_wc : (s.blockReset).wc = s.wc := rfl
@[simp] theorem State.blockReset_response : (s.blockReset).response = s.response := rfl
@[simp] theorem State.blockReset_program : (s.blockReset).program = s.program := rfl
@[simp] theorem State.blockReset_turns : (s.blockReset).turns = s.turns := rfl

end

section
variable (s : State) (b : BusResponse)

@[simp] theorem State.respond_regs : (s.respond b).regs = s.regs := rfl
@[simp] theorem State.respond_phase : (s.respond b).phase = s.phase := rfl
@[simp] theorem State.respond_rstN : (s.respond b).rstN = s.rstN := rfl
@[simp] theorem State.respond_wc : (s.respond b).wc = s.wc := rfl
@[simp] theorem State.respond_response : (s.respond b).response = some b := rfl
@[simp] theorem State.respond_program : (s.respond b).program = s.program := rfl
@[simp] theorem State.respond_turns : (s.respond b).turns = s.turns := rfl

end

section
variable (s : State) (r : Regs)

@[simp] theorem State.setRegs_regs : (s.setRegs r).regs = r := rfl
@[simp] theorem State.setRegs_phase : (s.setRegs r).phase = s.phase := rfl
@[simp] theorem State.setRegs_rstN : (s.setRegs r).rstN = s.rstN := rfl
@[simp] theorem State.setRegs_wc : (s.setRegs r).wc = s.wc := rfl
@[simp] theorem State.setRegs_response : (s.setRegs r).response = s.response := rfl
@[simp] theorem State.setRegs_program : (s.setRegs r).program = s.program := rfl
@[simp] theorem State.setRegs_turns : (s.setRegs r).turns = s.turns := rfl

end

section
variable (s : State) (c : ClockSample)

@[simp] theorem State.clockTurn_regs : (s.clockTurn c).regs = s.regs := rfl
@[simp] theorem State.clockTurn_phase : (s.clockTurn c).phase = s.phase := rfl
@[simp] theorem State.clockTurn_rstN : (s.clockTurn c).rstN = s.rstN := rfl
@[simp] theorem State.clockTurn_wc : (s.clockTurn c).wc = c := rfl
@[simp] theorem State.clockTurn_response : (s.clockTurn c).response = s.response := rfl
@[simp] theorem State.clockTurn_program : (s.clockTurn c).program = s.program := rfl
@[simp] theorem State.clockTurn_turns : (s.clockTurn c).turns = s.turns := rfl

end

section
variable (s : State) (w : Word)

@[simp] theorem State.placeCommand_regs : (s.placeCommand w).regs = s.regs.flagsAtIssue := rfl
@[simp] theorem State.placeCommand_phase : (s.placeCommand w).phase = .pending (decodeWord w) s.regs s.wc := rfl
@[simp] theorem State.placeCommand_rstN : (s.placeCommand w).rstN = s.rstN := rfl
@[simp] theorem State.placeCommand_wc : (s.placeCommand w).wc = s.wc := rfl
@[simp] theorem State.placeCommand_response : (s.placeCommand w).response = s.response := rfl
@[simp] theorem State.placeCommand_program : (s.placeCommand w).program = s.program := rfl
@[simp] theorem State.placeCommand_turns : (s.placeCommand w).turns = .engine :: s.turns := rfl

end

end Sys2Proof.Machine
end

