-- ==== Sys2Proof/Laws/Ops.lean ====
section
/-! SUPPORT. What each shared operation can do: completion, the bus, the turns and one step. -/

namespace Sys2Proof.Machine

/-! ## Completion -/

@[simp] theorem Regs.complete_error (r : Regs) (e : CmdError) : r.complete (.error e) = r.flagsAtError e := rfl

@[simp] theorem Regs.complete_ok (r : Regs) (c : Commit) :
    r.complete (.ok c) = (r.commit c).flagsAtSuccess c.matched := rfl

/-- A completion that reports an error code other than OK comes from an error, and commits nothing else. -/
theorem Regs.complete_of_err {r : Regs} {o : RunOutcome} (h : (r.complete o).err ≠ .ok) :
    ∃ e, o = .error e ∧ r.complete o = r.flagsAtError e := by
  cases o with
  | error e => exact ⟨e, rfl, rfl⟩
  | ok c => exact absurd rfl h

/-- What a commit leaves of a byte outside the three buffers a command can write. -/
theorem Memory.read_writeOption_outside (m : Memory) (b : Buf) (o : Option (List Byte)) {a : Nat}
    (h : ∀ bs, o = some bs → a < b.base ∨ b.base + bs.length ≤ a) : (m.writeOption b o).read a = m.read a := by
  cases o with
  | none => rfl
  | some bs => exact Memory.read_writeBytes_outside m b.base bs (h bs rfl)

theorem Regs.wf_commit {r : Regs} (c : Commit) (h : r.mem.wf = true) : (r.commit c).mem.wf = true :=
  Memory.wf_writeOption _ _ (Memory.wf_writeOption _ _ (Memory.wf_writeOption _ _ h))

theorem Regs.wf_complete {r : Regs} (o : RunOutcome) (h : r.mem.wf = true) : (r.complete o).mem.wf = true := by
  cases o with
  | error e => exact h
  | ok c => exact Regs.wf_commit c h

theorem State.snapshot_of_pending {s : State} {op : Instr} {snap : Regs} {wc : ClockSample}
    (h : s.phase = .pending op snap wc) : s.snapshot = snap := by simp [State.snapshot, h]

theorem State.sample_of_pending {s : State} {op : Instr} {snap : Regs} {wc : ClockSample}
    (h : s.phase = .pending op snap wc) : s.sample = wc := by simp [State.sample, h]

theorem State.snapshot_of_idle {s : State} (h : s.phase = .idle) : s.snapshot = s.regs := by
  simp [State.snapshot, h]

theorem State.busy_iff (s : State) : s.busy = true ↔ ∃ op snap wc, s.phase = .pending op snap wc := by
  unfold State.busy
  cases s.phase <;> simp [Phase.busy]

theorem State.not_busy_iff (s : State) : s.busy = false ↔ s.phase = .idle := by
  unfold State.busy
  cases s.phase <;> simp [Phase.busy]

/-- Every command ends in a completion with some outcome: the inversion of `exec`. -/
theorem exec_eq_complete (i : Instr) (s : State) : ∃ o, exec i s = .next (s.complete o) := by
  cases i <;> exact ⟨_, rfl⟩

/-! ## The bus -/

/-- What a mapped write can do to the registers and the phase. -/
theorem State.writeReg_cases (s : State) (n : RegName) (v : Word) :
    (n = .ctrl ∧ s.writeReg n v = s.writeCtrl v) ∨
    (n = .status ∧ s.writeReg n v = s.writeStatus v) ∨
    (n ≠ .ctrl ∧ n ≠ .status ∧ s.busy = true ∧ s.writeReg n v = s.setRegs s.regs.flagsAtIgnoredWrite) ∨
    (n = .cmd ∧ s.busy = false ∧ s.writeReg n v = s.issue v) ∨
    (n.access = .rw ∧ s.busy = false ∧ s.writeReg n v = s.setRegs (s.regs.store n v)) ∨
    (n.access = .ro ∧ s.busy = false ∧ s.writeReg n v = s) := by
  cases hb : s.busy <;> cases n <;> try (simp [State.writeReg, State.writePlain, RegName.access, hb]; done)
  case bufWord b k => cases b <;> simp [State.writeReg, State.writePlain, RegName.access, hb]

theorem State.writeReg_cmd_idle {s : State} (w : Word) (h : s.busy = false) : s.writeReg .cmd w = s.issue w := by
  simp [State.writeReg, State.writePlain, h, RegName.access]

theorem State.writeReg_busy {s : State} {n : RegName} (w : Word) (h : s.busy = true) (hc : n ≠ .ctrl)
    (hs : n ≠ .status) : s.writeReg n w = s.setRegs s.regs.flagsAtIgnoredWrite := by
  cases n <;> first | exact absurd rfl hc | exact absurd rfl hs | simp [State.writeReg, State.writePlain, h]

theorem State.writeReg_rw_idle {s : State} {n : RegName} (w : Word) (h : s.busy = false) (ha : n.access = .rw) :
    s.writeReg n w = s.setRegs (s.regs.store n w) := by
  cases n <;> first | exact absurd ha (by decide) | simp [State.writeReg, State.writePlain, h, ha]

theorem State.writeReg_ro_idle {s : State} {n : RegName} (w : Word) (h : s.busy = false) (ha : n.access = .ro) :
    s.writeReg n w = s := by
  cases n <;> first | exact absurd ha (by decide) | simp [State.writeReg, State.writePlain, h, ha]

@[simp] theorem State.busy_issue (s : State) (w : Word) : (s.issue w).busy = true := rfl

@[simp] theorem State.busy_setRegs (s : State) (r : Regs) : (s.setRegs r).busy = s.busy := rfl

@[simp] theorem State.busy_respond (s : State) (b : BusResponse) : (s.respond b).busy = s.busy := rfl

@[simp] theorem State.busy_complete (s : State) (o : RunOutcome) : (s.complete o).busy = false := rfl

@[simp] theorem State.busy_blockReset (s : State) : s.blockReset.busy = false := rfl

/-- A register read depends only on the registers and the phase. -/
theorem State.readReg_congr {s t : State} (hr : s.regs = t.regs) (hp : s.phase = t.phase) (n : RegName) :
    s.readReg n = t.readReg n := by
  cases n <;> simp [State.readReg, State.busy, hr, hp]

theorem offsetOf_of_bufWordAt {b : Buf} {a : Nat} {n : RegName} (ha : a % 4 = 0) (h : bufWordAt b a = some n) :
    n.offsetOf = a := by
  unfold bufWordAt at h
  split at h
  · have hb : b.base % 4 = 0 := by cases b <;> rfl
    simp only [Option.some.injEq] at h
    rw [← h, RegName.offsetOf]
    omega
  · simp at h

/-- A mapped offset is aligned, and it is the offset of the register it reaches (10_state R21). -/
theorem offsetOf_of_target {off : Addr} {n : RegName} (h : target off = some n) :
    off.toNat % 4 = 0 ∧ n.offsetOf = off.toNat := by
  unfold target at h
  split at h
  · rename_i ha
    refine ⟨ha, ?_⟩
    simp only [regAt, Option.orElse_eq_orElse, Option.orElse_eq_or, Option.or_eq_some_iff] at h
    rcases h with h | ⟨-, h⟩
    · simpa using List.find?_some h
    · rcases h with h | ⟨-, h | ⟨-, h | ⟨-, h | ⟨-, h⟩⟩⟩⟩ <;> exact offsetOf_of_bufWordAt ha h
  · simp at h

theorem State.busRead_mapped {s : State} {off : Addr} {n : RegName} (h : target off = some n) :
    s.busRead off = s.respond (.read false (s.readReg n)) := by simp [State.busRead, State.readResponse, h]

theorem State.busRead_unmapped {s : State} {off : Addr} (h : target off = none) :
    s.busRead off = s.respond (.read true 0) := by simp [State.busRead, State.readResponse, h]

theorem State.busWrite_mapped {s : State} {off : Addr} {n : RegName} (v : Word) (h : target off = some n) :
    s.busWrite off v = (s.writeReg n v).respond (.write false) := by simp [State.busWrite, h]

theorem State.busWrite_unmapped {s : State} {off : Addr} (v : Word) (h : target off = none) :
    s.busWrite off v = s.respond (.write true) := by simp [State.busWrite, h]

/-! ## The turns and the step -/

theorem State.hostTurn_cons {s : State} {op : HostOp} {rest : List HostOp} (hp : s.program = op :: rest)
    (hr : s.rstN = true ∨ op.onBus = false) : s.hostTurn = .next (State.hostOp { s with program := rest } op) := by
  rcases hr with hr | hr <;> simp [State.hostTurn, hp, hr]

/-- A transaction during reset is refused. -/
theorem State.hostTurn_refused {s : State} {op : HostOp} {rest : List HostOp} (hp : s.program = op :: rest)
    (hr : s.rstN = false) (hb : op.onBus = true) : s.hostTurn = .refused .busDuringReset := by
  simp [State.hostTurn, hp, hr, hb]

/-- Everything a host action can do: a bus read, a bus write, or a change of the program alone. -/
theorem State.hostOp_cases (s : State) (op : HostOp) :
    (∃ off p, State.hostOp s op = { s.busRead off with program := p }) ∨
    (∃ off v, op = .wr off v ∧ State.hostOp s op = s.busWrite off v) ∨
    (op.onBus = false ∧ ∃ p, State.hostOp s op = { s with program := p }) := by
  cases op with
  | rd off => exact .inl ⟨off, s.program, rfl⟩
  | wr off v => exact .inr (.inl ⟨off, v, rfl, rfl⟩)
  | poll off mask v =>
    refine .inl ⟨off, if pollDone (s.readResponse off) mask v then s.program else .poll off mask v :: s.program, ?_⟩
    simp only [State.hostOp]
    split <;> rfl
  | waitIrq =>
    refine .inr (.inr ⟨rfl, if s.irq then s.program else .waitIrq :: s.program, ?_⟩)
    simp only [State.hostOp]
    split <;> rfl

theorem State.engineTurn_pending {s : State} {op : Instr} {snap : Regs} {wc : ClockSample}
    (h : s.phase = .pending op snap wc) : s.engineTurn = exec op s := by simp [State.engineTurn, h]

/-- One step is the next turn, on the state with that turn taken from the list. -/
theorem step_eq_takeTurn (s : State) : step s = State.takeTurn { s with turns := s.turns.tail } s.nextTurn := rfl

theorem State.nextTurn_cons {s : State} {t : Turn} {rest : List Turn} (h : s.turns = t :: rest) : s.nextTurn = t := by
  simp [State.nextTurn, h]

theorem State.nextTurn_nil {s : State} (h : s.turns = []) :
    s.nextTurn = if s.busy then .engine else .host := by simp [State.nextTurn, h]

theorem step_turn {s : State} {t : Turn} {rest : List Turn} (h : s.turns = t :: rest) :
    step s = State.takeTurn { s with turns := rest } t := by
  rw [step_eq_takeTurn, State.nextTurn_cons h, h, List.tail_cons]

theorem step_no_turn {s : State} (h : s.turns = []) :
    step s = s.takeTurn (if s.busy then .engine else .host) := by
  rw [step_eq_takeTurn, State.nextTurn_nil h, h, List.tail_nil, ← h]

/-- What one turn can answer with a next state: nothing done, a completion, a host action, a clock level, a reset
pin level. -/
theorem State.takeTurn_cases {s t : State} {u : Turn} (h : s.takeTurn u = .next t) :
    t = s ∨
    (∃ op snap wc o, s.phase = .pending op snap wc ∧ exec op s = .next (s.complete o) ∧ t = s.complete o) ∨
    (∃ op rest, s.program = op :: rest ∧ (s.rstN = true ∨ op.onBus = false) ∧
      t = State.hostOp { s with program := rest } op) ∨
    (∃ wc, t = s.clockTurn wc) ∨ (∃ level, t = s.resetPinTurn level) := by
  cases u with
  | host =>
    simp only [State.takeTurn, State.hostTurn] at h
    split at h
    · exact .inl (by simpa using h.symm)
    · split at h
      · rename_i hr
        rw [Bool.or_eq_true, Bool.not_eq_true'] at hr
        exact .inr (.inr (.inl ⟨_, _, ‹_›, hr, by simpa using h.symm⟩))
      · simp at h
  | engine =>
    simp only [State.takeTurn, State.engineTurn] at h
    split at h
    · exact .inl (by simpa using h.symm)
    · obtain ⟨o, ho⟩ := exec_eq_complete ‹Instr› s
      rw [ho] at h
      exact .inr (.inl ⟨_, _, _, o, ‹_›, ho, by simpa using h.symm⟩)
  | clock wc => exact .inr (.inr (.inr (.inl ⟨wc, by simpa [State.takeTurn] using h.symm⟩)))
  | resetPin level => exact .inr (.inr (.inr (.inr ⟨level, by simpa [State.takeTurn] using h.symm⟩)))

/-- A run of one step more is the run from the state that the first step leaves. -/
theorem core_run_next {s s' : State} (k : Nat) (h : step s = .next s') :
    Host.Core.run Sys2Proof.core (k + 1) s = Host.Core.run Sys2Proof.core k s' := by
  have h' : Sys2Proof.core.step s = .next s' := h
  simp only [Host.Core.run, h']

end Sys2Proof.Machine
end

