-- ==== Sys2Proof/Laws/Base32.lean ====
section
/-! SUPPORT. What the decoder can answer: when it accepts a text, and with which errors it rejects one. -/

namespace Sys2Proof.Machine

/-- The decoder accepts a text exactly when its five checks pass; the key is then the unpacked data. -/
theorem decodeText_ok_iff (text key : List Byte) :
    decodeText text = .ok key ↔
      text.findIdx? (fun b => !inAlphabet b) = none ∧ text.length % 8 = 0 ∧ (dataChars text).findIdx? isPad = none ∧
        padCountOk (padCount text) = true ∧ leftoverBits (dataChars text) = 0 ∧ key = unpackKey (dataChars text) := by
  unfold decodeText
  split
  · rename_i i hi
    simp [hi]
  · rename_i h1
    split
    · rename_i h2
      simp [h1, h2]
    · rename_i h2
      split
      · rename_i i h3
        simp [h3]
      · rename_i h3
        split
        · rename_i h4
          simp [h4]
        · rename_i h4
          split
          · rename_i h5
            simp [h5]
          · rename_i h5
            have h2' : text.length % 8 = 0 := by simpa using h2
            have h4' : padCountOk (padCount text) = true := by simpa using h4
            have h5' : leftoverBits (dataChars text) = 0 := by simpa using h5
            simp only [h1, h2', h3, h4', h5', true_and, Except.ok.injEq]
            exact eq_comm

/-- The decoder rejects a text only with InvalidSecretEncoding, one of the five sub-causes and a position not past the
text's length. -/
theorem decodeText_error {text : List Byte} {e : CmdError} (h : decodeText text = .error e) :
    ∃ sub pos, e = encodingError sub pos ∧ 1 ≤ sub ∧ sub ≤ 5 ∧ pos ≤ text.length := by
  have hfind : ∀ (p : Byte → Bool) (l : List Byte) (i : Nat), l.findIdx? p = some i → i < l.length := by
    intro p l i hi
    exact (List.findIdx?_eq_some_iff_findIdx_eq.mp hi).1
  have hdata : (dataChars text).length ≤ text.length := by simp [dataChars]
  have hpad : padCount text ≤ text.length := by
    unfold padCount
    exact ((List.takeWhile_sublist _).length_le).trans (by simp)
  unfold decodeText at h
  split at h
  · rename_i i hi
    have := hfind _ _ _ hi
    injection h with h
    exact ⟨1, i, h.symm, by omega, by omega, by omega⟩
  · split at h
    · injection h with h
      exact ⟨2, _, h.symm, by omega, by omega, le_refl _⟩
    · split at h
      · rename_i i hi
        have := hfind _ _ _ hi
        injection h with h
        exact ⟨3, i, h.symm, by omega, by omega, by omega⟩
      · split at h
        · injection h with h
          exact ⟨4, _, h.symm, by omega, by omega, hpad⟩
        · split at h
          · injection h with h
            exact ⟨5, _, h.symm, by omega, by omega, by omega⟩
          · simp at h

@[simp] theorem length_unpackKey (data : List Byte) : (unpackKey data).length = keyCount data.length := by
  simp [unpackKey]

@[simp] theorem length_secretText (r : Regs) : r.secretText.length = r.seclen.toNat := by
  simp [Regs.secretText, Regs.bytes]

/-- The decoder on a snapshot of legal length is the decoder of its text. -/
theorem b32decode_of_legal {r : Regs} (h : 16 ≤ r.seclen.toNat) (h' : r.seclen.toNat ≤ 128) :
    b32decode r = decodeText r.secretText := by
  unfold b32decode minSecret maxSecret
  rw [if_neg (by omega)]

/-- Outside the bounds it is the length error. -/
theorem b32decode_of_illegal {r : Regs} (h : r.seclen.toNat < 16 ∨ 128 < r.seclen.toNat) :
    b32decode r = .error ⟨.invalidSecretLength, r.seclen.setWidth 32⟩ := by
  unfold b32decode minSecret maxSecret
  rw [if_pos h]

end Sys2Proof.Machine
end

