-- ==== Sys2Proof/Laws/Checks.lean ====
section
/-! SUPPORT. The checks and invariants as propositions: one equivalence per Boolean definition. -/

namespace Sys2Proof.Machine

theorem Regs.digitsOk_iff (r : Regs) : r.digitsOk = true ↔ 1 ≤ r.digits.toNat ∧ r.digits.toNat ≤ 10 := by
  unfold Regs.digitsOk Regs.digitCount minDigits maxDigits
  rw [Bool.and_eq_true, decide_eq_true_iff, decide_eq_true_iff]

theorem Regs.keylenOk_iff (r : Regs) : r.keylenOk = true ↔ r.keylen.toNat ≤ 80 := by
  unfold Regs.keylenOk maxKey
  rw [decide_eq_true_iff]

theorem Buf.holds_iff (b : Buf) (a : Nat) : b.holds a = true ↔ b.base ≤ a ∧ a < b.base + b.size := by
  unfold Buf.holds
  rw [Bool.and_eq_true, decide_eq_true_iff, decide_eq_true_iff]

theorem inBuffer_iff (a : Nat) : inBuffer a = true ↔ ∃ b : Buf, b.base ≤ a ∧ a < b.base + b.size := by
  unfold inBuffer
  rw [List.any_eq_true]
  constructor
  · rintro ⟨b, -, h⟩
    exact ⟨b, (b.holds_iff a).1 h⟩
  · rintro ⟨b, h⟩
    exact ⟨b, by cases b <;> decide, (b.holds_iff a).2 h⟩

theorem Regs.buffersKept_iff (r : Regs) :
    r.buffersKept = true ↔ r.mem.wf = true ∧ (r.mem.all fun cell => inBuffer cell.1) = true := by
  unfold Regs.buffersKept
  rw [Bool.and_eq_true]

theorem Regs.bincodeKept_iff (r : Regs) : r.bincodeKept = true ↔ r.bincode = r.trunc.extractLsb' 0 31 := by
  unfold Regs.bincodeKept
  rw [decide_eq_true_iff]

theorem Regs.errorKept_iff (r : Regs) :
    r.errorKept = true ↔
      (r.matched = true → r.err = .ok) ∧ (r.err = .ok → r.errinfo = 0) ∧
        (r.err ≠ .illegalCommand → r.errinfo.toNat < 2 ^ 16) := by
  unfold Regs.errorKept
  rw [Bool.and_eq_true, Bool.and_eq_true, Bool.or_eq_true, Bool.or_eq_true, Bool.or_eq_true, Bool.not_eq_true',
    Bool.not_eq_true', decide_eq_true_iff, decide_eq_true_iff, decide_eq_true_iff, decide_eq_true_iff,
    decide_eq_false_iff_not, and_assoc]
  cases r.matched <;> tauto

theorem Regs.matchesSnapshot_iff (r snap : Regs) :
    r.matchesSnapshot snap = true ↔ snap = { r with ie := snap.ie, done := snap.done, werr := snap.werr } := by
  unfold Regs.matchesSnapshot
  rw [decide_eq_true_iff]

theorem State.pendingKept_of_idle {s : State} (h : s.phase = .idle) : s.pendingKept = true := by
  simp [State.pendingKept, h]

theorem State.pendingKept_iff_of_pending {s : State} {op : Instr} {snap : Regs} {wc : ClockSample}
    (h : s.phase = .pending op snap wc) :
    s.pendingKept = true ↔ op.wf = true ∧ s.regs.done = false ∧
      snap = { s.regs with ie := snap.ie, done := snap.done, werr := snap.werr } := by
  simp only [State.pendingKept, h, Bool.and_eq_true, Bool.not_eq_true', Regs.matchesSnapshot_iff, and_assoc]

theorem State.resetKept_iff (s : State) :
    s.resetKept = true ↔ (s.rstN = false → s.regs = Regs.reset ∧ s.phase = .idle) := by
  unfold State.resetKept
  rw [Bool.or_eq_true, Bool.and_eq_true, decide_eq_true_iff, decide_eq_true_iff]
  cases s.rstN <;> simp

end Sys2Proof.Machine
end

