-- ==== Sys2Proof/Laws/Commands.lean ====
section
/-! SUPPORT. What each command's meaning is, and what its run on a snapshot answers in each case. -/

namespace Sys2Proof.Machine

/-! ## The meanings -/

theorem exec_nop (s : State) : exec .nop s = .next (s.complete runNop) := rfl
theorem exec_b32dec (s : State) : exec .b32dec s = .next (s.complete (runB32dec s.snapshot)) := rfl
theorem exec_hmac (s : State) : exec .hmac s = .next (s.complete (runHmac s.snapshot)) := rfl
theorem exec_trunc (s : State) : exec .trunc s = .next (s.complete (runTrunc s.snapshot)) := rfl
theorem exec_hotp (s : State) : exec .hotp s = .next (s.complete (runHotp s.snapshot)) := rfl
theorem exec_tdiv (s : State) : exec .tdiv s = .next (s.complete (runTdiv s.snapshot)) := rfl
theorem exec_getcode (s : State) : exec .getcode s = .next (s.complete (runGetcode s.snapshot s.sample)) := rfl
theorem exec_verify (s : State) : exec .verify s = .next (s.complete (runVerify s.snapshot s.sample)) := rfl
theorem exec_keyclr (s : State) : exec .keyclr s = .next (s.complete runKeyclr) := rfl
theorem exec_reserved9 (s : State) : exec .reserved9 s = .next (s.complete (runIllegal (encode .reserved9))) := rfl
theorem exec_reservedAB (low : BitVec 1) (s : State) :
    exec (.reservedAB low) s = .next (s.complete (runIllegal (encode (.reservedAB low)))) := rfl
theorem exec_reservedCF (low : BitVec 2) (s : State) :
    exec (.reservedCF low) s = .next (s.complete (runIllegal (encode (.reservedCF low)))) := rfl
theorem exec_illegalRsv (rsv : BitVec 28) (op : BitVec 4) (s : State) :
    exec (.illegalRsv rsv op) s = .next (s.complete (runIllegal (encode (.illegalRsv rsv op)))) := rfl

/-! ## The completions, as records -/

theorem State.complete_error_eq (s : State) (e : CmdError) : s.complete (.error e) = s.failedWith e.code e.info := rfl

theorem State.complete_ok_eq (s : State) (c : Commit) :
    s.complete (.ok c) =
      { s with
        regs := { s.regs.commit c with done := true, matched := c.matched, err := .ok, errinfo := 0 }
        phase := .idle } := rfl

theorem State.complete_ok_unmatched (s : State) (c : Commit) (h : c.matched = false) :
    s.complete (.ok c) = s.succeededWith (s.regs.commit c) := by
  rw [State.complete_ok_eq, h]
  rfl

/-- What a successful completion leaves in memory. -/
@[simp] theorem State.complete_ok_mem (s : State) (c : Commit) :
    (s.complete (.ok c)).regs.mem =
      ((s.regs.mem.writeOption .key c.key).writeOption .digest c.digest).writeOption .codestr
        (c.code.map TruncResult.str) := rfl

@[simp] theorem State.complete_error_mem (s : State) (e : CmdError) :
    (s.complete (.error e)).regs.mem = s.regs.mem := rfl

/-! ## The runs -/

section
variable {r : Regs} {wc : ClockSample}

theorem runB32dec_ok {key : List Byte} (h : b32decode r = .ok key) :
    runB32dec r = .ok { keylen := some (BitVec.ofNat 7 key.length), key := some (keyImage key) } := by
  simp [runB32dec, h]

theorem runB32dec_error {e : CmdError} (h : b32decode r = .error e) : runB32dec r = .error e := by
  simp [runB32dec, h]

theorem runHmac_ok (h : r.keylenOk = true) :
    runHmac r = .ok { digest := some (hmacSha1 r.keyBytes (be64 r.counter)) } := by simp [runHmac, h]

theorem runHmac_error (h : r.keylenOk = false) : runHmac r = .error (keylenError r) := by simp [runHmac, h]

theorem runTrunc_ok (h : r.digitsOk = true) :
    runTrunc r = .ok { code := some (dynTrunc r.digestBytes r.digitCount) } := by simp [runTrunc, h]

theorem runTrunc_error (h : r.digitsOk = false) : runTrunc r = .error (digitsError r) := by simp [runTrunc, h]

theorem runHotp_ok (h : r.digitsOk = true) (hk : r.keylenOk = true) :
    runHotp r = .ok
      { digest := some (hmacSha1 r.keyBytes (be64 r.counter))
        code := some (dynTrunc (hmacSha1 r.keyBytes (be64 r.counter)) r.digitCount) } := by
  simp [runHotp, h, hk]

theorem runHotp_digits (h : r.digitsOk = false) : runHotp r = .error (digitsError r) := by simp [runHotp, h]

theorem runHotp_keylen (h : r.digitsOk = true) (hk : r.keylenOk = false) : runHotp r = .error (keylenError r) := by
  simp [runHotp, h, hk]

theorem resolve_override {tslice : DWord} (h : tslice ≠ 0) : resolve tslice wc = .ok tslice := by
  simp only [resolve, if_pos h]

theorem resolve_clock (h : wc.valid = true) : resolve 0 wc = .ok (counterForTime wc.seconds) := by
  simp [resolve, h]

theorem resolve_unavailable (h : wc.valid = false) : resolve 0 wc = .error ⟨.clockUnavailable, 0⟩ := by
  simp [resolve, h]

theorem runGetcode_ok {key : List Byte} {c : DWord} (h : r.digitsOk = true) (hk : b32decode r = .ok key)
    (hc : resolve r.tslice wc = .ok c) :
    runGetcode r wc = .ok
      { counter := some c
        digest := some (hmacSha1 key (be64 c))
        code := some (dynTrunc (hmacSha1 key (be64 c)) r.digitCount) } := by
  simp [runGetcode, h, hk, hc]

theorem runGetcode_digits (h : r.digitsOk = false) : runGetcode r wc = .error (digitsError r) := by
  simp [runGetcode, h]

theorem runGetcode_secret {e : CmdError} (h : r.digitsOk = true) (hk : b32decode r = .error e) :
    runGetcode r wc = .error e := by simp [runGetcode, h, hk]

theorem runGetcode_clock {key : List Byte} {e : CmdError} (h : r.digitsOk = true) (hk : b32decode r = .ok key)
    (hc : resolve r.tslice wc = .error e) : runGetcode r wc = .error e := by simp [runGetcode, h, hk, hc]

theorem runVerify_scan {key : List Byte} {c : DWord} (h : r.digitsOk = true) (hk : b32decode r = .ok key)
    (hg : r.candlen.toNat = r.digitCount) (hc : resolve r.tslice wc = .ok c) :
    runVerify r wc = .ok
      { counter := some c
        matchctr := some (BitVec.ofNat 64 ((scanWindow key r.digitCount (r.candidate r.digitCount) c r.disc).getD 0))
        matched := (scanWindow key r.digitCount (r.candidate r.digitCount) c r.disc).isSome } := by
  simp [runVerify, h, hk, hg, hc]

theorem runVerify_gate {key : List Byte} (h : r.digitsOk = true) (hk : b32decode r = .ok key)
    (hg : r.candlen.toNat ≠ r.digitCount) : runVerify r wc = .ok { matchctr := some 0, matched := false } := by
  simp [runVerify, h, hk, hg]

theorem runVerify_digits (h : r.digitsOk = false) : runVerify r wc = .error (digitsError r) := by
  simp [runVerify, h]

theorem runVerify_secret {e : CmdError} (h : r.digitsOk = true) (hk : b32decode r = .error e) :
    runVerify r wc = .error e := by simp [runVerify, h, hk]

theorem runVerify_clock {key : List Byte} {e : CmdError} (h : r.digitsOk = true) (hk : b32decode r = .ok key)
    (hg : r.candlen.toNat = r.digitCount) (hc : resolve r.tslice wc = .error e) : runVerify r wc = .error e := by
  simp [runVerify, h, hk, hg, hc]

end

/-! ## The scan -/

/-- The scan finds the first value of its range that meets the test. -/
theorem firstMatch_some {p : Nat → Bool} {lo count x : Nat} (h : firstMatch p lo count = some x) :
    lo ≤ x ∧ x < lo + count ∧ p x = true ∧ ∀ y, lo ≤ y → y < x → p y = false := by
  induction count generalizing lo with
  | zero => simp [firstMatch] at h
  | succ count ih =>
    rw [firstMatch] at h
    split at h
    · injection h with h
      subst h
      exact ⟨le_refl _, by omega, ‹_›, fun y h1 h2 => absurd h1 (by omega)⟩
    · obtain ⟨h1, h2, h3, h4⟩ := ih h
      refine ⟨by omega, by omega, h3, fun y hy hyx => ?_⟩
      by_cases hlo : y = lo
      · subst hlo
        simpa using ‹¬ p y = true›
      · exact h4 y (by omega) hyx

theorem firstMatch_none {p : Nat → Bool} {lo count : Nat} (h : firstMatch p lo count = none) :
    ∀ y, lo ≤ y → y < lo + count → p y = false := by
  induction count generalizing lo with
  | zero => intro y h1 h2; omega
  | succ count ih =>
    rw [firstMatch] at h
    split at h
    · simp at h
    · intro y h1 h2
      by_cases hlo : y = lo
      · subst hlo
        simpa using ‹¬ p y = true›
      · exact ih h y (by omega) (by omega)

end Sys2Proof.Machine
end

