-- ==== Sys2Proof/Laws/Hash.lean ====
section
/-! SUPPORT. The shapes of the hash: lengths, the schedule, the blocks, and HMAC's use of a long key. -/

namespace Sys2Proof.Machine

@[simp] theorem length_be32Bytes (h : Word) : (be32Bytes h).length = 4 := rfl

@[simp] theorem length_be64 (c : DWord) : (be64 c).length = 8 := rfl

@[simp] theorem length_hashBytes (h : HashState) : (hashBytes h).length = 20 := rfl

theorem sha1_eq (msg : List Byte) :
    sha1 msg = hashBytes ((sha1Blocks ((sha1Pad msg).length / 64) (sha1Pad msg)).foldl compress sha1Init) := by
  unfold sha1
  rfl

@[simp] theorem length_sha1 (msg : List Byte) : (sha1 msg).length = 20 := by
  rw [sha1_eq]
  exact length_hashBytes _

@[simp] theorem length_hmacSha1 (key msg : List Byte) : (hmacSha1 key msg).length = 20 := length_sha1 _

@[simp] theorem length_hmacBlockKey (key : List Byte) : (hmacBlockKey key).length = 64 := by
  unfold hmacBlockKey
  split
  · simp
  · simp
    omega

/-- A key longer than 64 bytes acts as its SHA-1 (R147). -/
theorem hmacBlockKey_long {key : List Byte} (h : 64 < key.length) : hmacBlockKey key = hmacBlockKey (sha1 key) := by
  unfold hmacBlockKey
  rw [if_pos h, if_neg (by simp)]

@[simp] theorem length_beWords (n : Nat) (bs : List Byte) : (beWords n bs).length = n := by
  induction n generalizing bs with
  | zero => rfl
  | succ n ih => simp [beWords, ih]

@[simp] theorem length_extendSchedule (n : Nat) (ws : List Word) : (extendSchedule n ws).length = n + ws.length := by
  induction n generalizing ws with
  | zero => simp [extendSchedule]
  | succ n ih => rw [extendSchedule, ih, List.length_cons]; omega

@[simp] theorem length_schedule (blk : List Byte) : (schedule blk).length = 80 := by simp [schedule]

@[simp] theorem length_sha1Blocks (n : Nat) (bs : List Byte) : (sha1Blocks n bs).length = n := by
  induction n generalizing bs with
  | zero => rfl
  | succ n ih => simp [sha1Blocks, ih]

/-- Block `i` is the bytes 64i to 64i + 63 (R141). -/
theorem getElem_sha1Blocks (n : Nat) (bs : List Byte) (i : Nat) (h : i < (sha1Blocks n bs).length) :
    (sha1Blocks n bs)[i] = (bs.drop (64 * i)).take 64 := by
  induction n generalizing bs i with
  | zero => simp [sha1Blocks] at h
  | succ n ih =>
    cases i with
    | zero => simp [sha1Blocks]
    | succ i =>
      simp only [sha1Blocks, List.getElem_cons_succ]
      rw [ih, List.drop_drop]
      congr 2
      omega

@[simp] theorem length_render (code n : Nat) : (render code n).length = n := by simp [render]

theorem length_dynTrunc_str (d : List Byte) {n : Nat} (h : n ≤ 12) : (dynTrunc d n).str.length = 12 := by
  simp [dynTrunc]
  omega

end Sys2Proof.Machine
end

