-- ==== Sys2Proof/Laws/PerInstr.lean ====
section
/-! SUPPORT. The family of statements about an instruction as a word: its two fields (30_encoding R100). -/

namespace Sys2Proof.Laws.EncodeFields

/-- The encoding of an instruction holds its RSV bits in the RSV field and its number in the OP field (R100, R102,
R103). -/
def Statement (i : Instr) : Prop := rsvField (encode i) = i.rsvBits ∧ opField (encode i) = i.opNumber

theorem of_append (rsv : BitVec 28) (op : BitVec 4) :
    rsvField (rsv ++ op) = rsv ∧ opField (rsv ++ op) = op := by
  unfold rsvField opField
  refine ⟨?_, ?_⟩
  · ext j hj
    rw [BitVec.getElem_extractLsb', BitVec.getLsbD_append]
    simp [BitVec.getLsbD_eq_getElem, hj]
  · ext j hj
    rw [BitVec.getElem_extractLsb', BitVec.getLsbD_append]
    simp [BitVec.getLsbD_eq_getElem, hj]

theorem nop : Statement .nop := of_append _ _
theorem b32dec : Statement .b32dec := of_append _ _
theorem hmac : Statement .hmac := of_append _ _
theorem trunc : Statement .trunc := of_append _ _
theorem hotp : Statement .hotp := of_append _ _
theorem tdiv : Statement .tdiv := of_append _ _
theorem getcode : Statement .getcode := of_append _ _
theorem verify : Statement .verify := of_append _ _
theorem keyclr : Statement .keyclr := of_append _ _
theorem reserved9 : Statement .reserved9 := of_append _ _
theorem reservedAB (low : BitVec 1) : Statement (.reservedAB low) := of_append _ _
theorem reservedCF (low : BitVec 2) : Statement (.reservedCF low) := of_append _ _
theorem illegalRsv (rsv : BitVec 28) (op : BitVec 4) : Statement (.illegalRsv rsv op) := of_append _ _

end Sys2Proof.Laws.EncodeFields
end

