-- ==== Sys2Proof/Tests/Slice0.lean ====
section
/-! SUPPORT. Tests: the words of 30_encoding, the vectors of 95_test_vectors (their ids stand in the comments), and a
witness for the hypotheses of every statement. -/

namespace Sys2Proof.Tests

open Sys2Proof.Machine

set_option Elab.async false -- the kernel evaluations one after another, which bounds the threads

/-! ## Helpers -/

/-- The `n` bytes of a hex number, first digits first. -/
def bytesOf (n x : Nat) : List Byte := (List.range n).map fun i => BitVec.ofNat 8 (x >>> (8 * (n - 1 - i)))

/-- The reset state with texts in its buffers and its registers set by `f`. -/
def loaded (texts : List (Buf × List Byte)) (f : Regs → Regs) : State :=
  let mem := texts.foldl (fun m p => m.writeBytes p.1.base p.2) State.reset.regs.mem
  State.reset.setRegs (f { State.reset.regs with mem := mem })

/-- The registers after one step that runs the command word `w`. -/
def ran (s : State) (w : Nat) : Option Regs :=
  match step (s.withFetchWord 32 w) with
  | .next t => some t.regs
  | _ => none

/-- A test on those registers. -/
def check (s : State) (w : Nat) (p : Regs → Bool) : Bool := (ran s w).any p

/-- The state a meaning answers with. -/
def after (i : Instr) (s : State) : State :=
  match exec i s with
  | .next t => t
  | _ => s

/-- DOC's secret "I3VFM3JKMNDJCDH5BMBEEQAW6KJ6NOE3" and the key it decodes to (95_test_vectors V1). -/
def secretDoc : List Byte := bytesOf 32 0x493356464D334A4B4D4E444A43444835424D424545514157364B4A364E4F4533
def keyDoc : List Byte := bytesOf 20 0x46ea566d2a6346910cfd0b02424016f293e6b89b

/-- "12345678901234567890", the RFC key. -/
def keyRfc : List Byte := bytesOf 20 0x3132333435363738393031323334353637383930

/-- DOC's secret loaded, DIGITS 6, with an override and a clock level. -/
def docState (tslice : Nat) (wc : ClockSample) (f : Regs → Regs := id) : State :=
  { loaded [(.secret, secretDoc)] fun r =>
      f { r with
        seclen := 32, tsliceLo := loHalf (BitVec.ofNat 64 tslice), tsliceHi := hiHalf (BitVec.ofNat 64 tslice) }
    with wc := wc }

/-- A VERIFY of a 6-character candidate under DOC's secret. -/
def verifyState (cand tslice disc : Nat) : State :=
  docState tslice ⟨false, 0⟩ fun r =>
    { r with
      candlen := 6, discLo := loHalf (BitVec.ofNat 64 disc), discHi := hiHalf (BitVec.ofNat 64 disc)
      mem := r.mem.writeBytes Buf.cand.base (bytesOf 6 cand) }

/-- A 16-character secret, or another length, loaded. -/
def secretState (n x : Nat) : State :=
  loaded [(.secret, bytesOf n x)] fun r => { r with seclen := BitVec.ofNat 8 n }

/-- A raw key loaded, with a counter. -/
def keyState (key : List Byte) (keylen counter : Nat) (f : Regs → Regs := id) : State :=
  loaded [(.key, key)] fun r =>
    f { r with
      keylen := BitVec.ofNat 7 keylen
      counterLo := loHalf (BitVec.ofNat 64 counter), counterHi := hiHalf (BitVec.ofNat 64 counter) }

/-- A digest loaded, with a digit count. -/
def digestState (x digits : Nat) : State :=
  loaded [(.digest, bytesOf 20 x)] fun r => { r with digits := BitVec.ofNat 5 digits }

/-- A command pending on the reset state. -/
def busyState (i : Instr) : State := { State.reset with phase := .pending i State.reset.regs State.reset.wc }

/-! ## Well-formedness and decoding (30_encoding R100 to R103) -/

/-- An illegal word needs RSV != 0. -/
theorem test_wf_refuses_rsv_zero : (Instr.illegalRsv 0 6).wf = false := by decide

theorem test_wf_accepts : (Instr.illegalRsv 1 6).wf = true ∧ Instr.nop.wf = true := by decide

/-- The nine commands, OP in bits 3:0, RSV = 0 (R102). -/
theorem test_decode_commands :
    [0x0, 0x1, 0x2, 0x3, 0x4, 0x5, 0x6, 0x7, 0x8].map (decodeTableWord 32) =
      [.nop, .b32dec, .hmac, .trunc, .hotp, .tdiv, .getcode, .verify, .keyclr].map some := by decide

/-- The reserved OP values, all seven, bit by bit (R103). -/
theorem test_decode_reserved :
    [0b1001, 0b1010, 0b1011, 0b1100, 0b1101, 0b1110, 0b1111].map (decodeTableWord 32) =
      [.reserved9, .reservedAB 0, .reservedAB 1, .reservedCF 0, .reservedCF 1, .reservedCF 2, .reservedCF 3].map
        some := by decide

/-- RSV != 0 at both ends of the field (E3, E4), and over a reserved OP. -/
theorem test_decode_illegal :
    [0x00000016, 0x80000000, 0xFFFFFFFF].map (decodeTableWord 32) =
      [.illegalRsv 1 6, .illegalRsv 0x8000000 0, .illegalRsv 0xFFFFFFF 15].map some := by decide

/-- The encoder against the words of R102 and R103. -/
theorem test_encode :
    [Instr.nop, .b32dec, .hmac, .trunc, .hotp, .tdiv, .getcode, .verify, .keyclr, .reserved9, .reservedAB 1,
      .reservedCF 2, .illegalRsv 1 6].map encode =
      [0x0, 0x1, 0x2, 0x3, 0x4, 0x5, 0x6, 0x7, 0x8, 0x9, 0xB, 0xE, 0x16] := by decide

/-- A number of more than 32 bits is no command word (R106). -/
theorem test_decode_too_long : decodeTableWord 40 0x100000000 = none := by decide

/-! ## The commands -/

/-- N2: after a ClockUnavailable error NOP leaves STATUS 0x2 and ERRINFO 0. -/
theorem test_nop :
    check ((State.reset.failedWith .clockUnavailable 0)) 0x0 (fun r =>
      statusWord r false == 0x2 && r.errinfo == 0) = true := by decide +kernel

/-- V1, B1: DOC's secret. -/
theorem test_b32dec_doc :
    check (docState 0 ⟨false, 0⟩) 0x1 (fun r => r.keylen == 20 && r.keyBytes == keyDoc && statusWord r false == 0x2) =
      true := by decide +kernel

/-- B5 "MZXW6YTBOI======" is "foobar"; B20 "MZXW6YTBOJ======" leaves a bit set: 0x509. -/
theorem test_b32dec_leftover :
    check (secretState 16 0x4D5A5857365954424F493D3D3D3D3D3D) 0x1 (fun r =>
      r.keylen == 6 && r.bytes .key 8 == bytesOf 8 0x666F6F6261720000) = true ∧
    check (secretState 16 0x4D5A5857365954424F4A3D3D3D3D3D3D) 0x1 (fun r =>
      r.err == .invalidSecretEncoding && r.errinfo == 0x509 && r.keylen == 0) = true := by decide +kernel

/-- H1: RFC 4226, counter 0; H6: 65 bytes, hashed first. -/
theorem test_hmac :
    check (keyState keyRfc 20 0) 0x2 (fun r =>
      r.digestBytes == bytesOf 20 0xcc93cf18508d94934c64b65d8ba7667fb7cde4b0) = true ∧
    check (keyState ((List.range 65).map (BitVec.ofNat 8)) 65 0) 0x2 (fun r =>
      r.digestBytes == bytesOf 20 0xad4e7afa7e1eb6625ca48b39cd64a3fc312d087a) = true := by decide +kernel

/-- H8: KEYLEN 81 is an error. -/
theorem test_hmac_keylen :
    check (keyState [] 81 0) 0x2 (fun r => r.err == .invalidKeyLength && r.errinfo == 0x51) = true := by
  decide +kernel

/-- T1: RFC 4226 section 5.4. -/
theorem test_trunc :
    check (digestState 0x1f8698690e02ca16618550ef7f19da8e945b555a 6) 0x3 (fun r =>
      r.offset == 10 && r.trunc == 0x50EF7F19 && r.bincode == 1357872921 && r.code == 872921 &&
        r.bytes .codestr 12 == bytesOf 12 0x383732393231000000000000) = true := by decide +kernel

/-- T5: the highest offset, bit 31 set, ten digits. -/
theorem test_trunc_ten_digits :
    check (digestState 0xffffffff0f 10) 0x3 (fun r =>
      r.offset == 15 && r.trunc == 0xFFFFFFFF && r.bincode == 0x7FFFFFFF && r.code == 2147483647 &&
        r.bytes .codestr 10 == bytesOf 10 0x32313437343833363437) = true := by decide +kernel

/-- RFC 4226 Appendix D, counter 1, 8 digits: 94287082. -/
theorem test_hotp :
    check (keyState keyRfc 20 1 fun r => { r with digits := 8 }) 0x4 (fun r =>
      r.offset == 11 && r.trunc == 0xC1397EEA && r.code == 94287082) = true := by decide +kernel

/-- Precedence: DIGITS 0 before KEYLEN 81. -/
theorem test_hotp_precedence :
    check (keyState [] 81 0 fun r => { r with digits := 0 }) 0x4 (fun r => r.err == .invalidDigits && r.errinfo == 0) =
      true := by decide +kernel

/-- TIME 1523610659 is counter 50787021; the largest TIME is 614891469123651720. -/
theorem test_tdiv :
    check (State.reset.setRegs { State.reset.regs with timeLo := 1523610659 }) 0x5 (fun r =>
      r.counterHi == 0 && r.counterLo == 0x0306F2CD) = true ∧
    check (State.reset.setRegs { State.reset.regs with timeLo := 0xFFFFFFFF, timeHi := 0xFFFFFFFF }) 0x5 (fun r =>
      r.counterHi == 0x08888888 && r.counterLo == 0x88888888) = true := by decide +kernel

/-- G2: DOC's vector through the clock port; KEY and KEYLEN stay as they were. -/
theorem test_getcode :
    check (docState 0 ⟨true, 1523610659⟩) 0x6 (fun r =>
      r.counterLo == 0x0306F2CD && r.code == 224124 && r.trunc == 0x1CFB30FC && r.keylen == 0 &&
        r.digestBytes == bytesOf 20 0xd71cfb30fcd3658edc82ebc5157a3d1bd86a4de1) = true := by decide +kernel

/-- G3: no override and no clock. -/
theorem test_getcode_clock :
    check (docState 0 ⟨false, 0⟩) 0x6 (fun r => statusWord r false == 0x302 && r.errinfo == 0) = true := by
  decide +kernel

/-- Y2: "559389" is the code of the next slice, inside the window. -/
theorem test_verify_window :
    check (verifyState 0x353539333839 50787021 1) 0x7 (fun r =>
      r.matchctrLo == 50787022 && r.counterLo == 50787021 && statusWord r false == 0x6) = true := by decide +kernel

/-- Y10: the window clamps at 0 and the match is counter 0; Y12: it saturates at 2^64 - 1 ("607227"). -/
theorem test_verify_edges :
    check (verifyState 0x333038373533 1 5) 0x7 (fun r => r.matched && r.matchctrLo == 0 && r.counterLo == 1) = true ∧
    check (verifyState 0x363037323237 (2 ^ 64 - 1) 3) 0x7 (fun r =>
      r.matched && r.matchctrHi == 0xFFFFFFFF && r.matchctrLo == 0xFFFFFFFF) = true := by decide +kernel

/-- N3: KEY and KEYLEN cleared. -/
theorem test_keyclr :
    check (keyState keyDoc 20 0) 0x8 (fun r => r.keylen == 0 && r.bytes .key 20 == List.replicate 20 0) = true := by
  decide +kernel

/-- E1, E2 and a word of the row between them; E3: OP 6 under RSV != 0 is no GETCODE. -/
theorem test_illegal :
    [0x9, 0xB, 0xF, 0x16, 0x80000000].all (fun w =>
      check State.reset w fun r => statusWord r false == 0x602 && r.errinfo == BitVec.ofNat 32 w && r.code == 0) =
      true := by decide +kernel

/-! ## SHA-1 and the bus -/

/-- SHA1("") (41_hmac_sha1 R144) and BE64(50787021) (R146). -/
theorem test_sha1_empty :
    sha1 [] = bytesOf 20 0xda39a3ee5e6b4b0d3255bfef95601890afd80709 ∧ be64 50787021 = bytesOf 8 0x306f2cd := by
  decide +kernel

/-- The lanes of 20_memory R72: "I3VF" is 0x46563349, and DIGEST[19] is the top byte of the word at 0x090. -/
theorem test_lanes :
    (State.reset.busWrite 0x100 0x46563349).regs.bytes .secret 4 = bytesOf 4 0x49335646 ∧
    (digestState 0xE1 6).readResponse 0x090 = .read false 0xE1000000 := by decide +kernel

/-- E5, E6: misaligned and unmapped offsets. -/
theorem test_bus_errors :
    State.reset.busRead 0x002 = { State.reset with response := some (.read true 0) } ∧
    State.reset.busWrite 0x034 7 = { State.reset with response := some (.write true) } := by decide

/-- E10: the soft reset wins over IE; E12: a locked CFG drops the second write. -/
theorem test_ctrl_cfg :
    (State.reset.busWrite 0x004 0xFFFFFFFF).regs = Regs.reset ∧
    ((State.reset.busWrite 0x008 0x8000000A).busWrite 0x008 6).readReg .cfg = 0x8000000A := by decide

/-- E13: SECLEN written while BUSY; E8: CMD reads 0. -/
theorem test_busy_write :
    ((busyState .nop).busWrite 0x018 5).regs = { Regs.reset with werr := true } ∧
    State.reset.readReg .cmd = 0 := by decide

/-- `wrbuf` packs the text of R72's example, zeros past the end. -/
theorem test_wrbuf :
    hostWrbuf .cand (bytesOf 6 0x353539333839) = [.wr 0x0B0 0x33393535, .wr 0x0B4 0x00003938] := by decide

/-- The offset the block sees of a host address is its low 12 bits (20_memory R77). -/
theorem test_window_offset : windowOffset 0x4000100C = 0x00C := by decide

/-- A poll whose value is not there yet stays the next transaction. -/
theorem test_poll_waits :
    (State.hostOp (busyState .nop) (.poll 0x010 1 0)).program = [.poll 0x010 1 0] ∧
    (State.hostOp State.reset (.poll 0x010 1 0)).program = [] := by decide

/-- A wait on irq (20_memory R81) ends once IE and DONE are 1 (E15), uses no bus, and is no transaction in reset. -/
theorem test_wait_irq :
    let s : State := { busyState .nop with program := [.waitIrq], turns := [.host, .engine, .host] }
    let t := s.setRegs { s.regs with ie := true }
    Host.Core.run Sys2Proof.core 1 t = .next { t with turns := [.engine, .host] } ∧
    (match Host.Core.run Sys2Proof.core 3 t with
      | .next u => u.program = [] ∧ u.irq = true ∧ u.response = none
      | _ => False) ∧
    step { State.reset.resetPinTurn false with program := [.waitIrq] } =
      .next { State.reset.resetPinTurn false with program := [.waitIrq] } :=
  ⟨rfl, ⟨rfl, rfl, rfl⟩, rfl⟩

/-- A CFG write with BUSY = 1 and LOCK = 1 sets WERR and changes nothing else (log entry 16). -/
theorem test_locked_cfg_busy :
    let s := (busyState .nop).setRegs { Regs.reset with lock := true }
    (s.busWrite 0x008 8).regs = { s.regs with werr := true } := by decide

/-! ## Witnesses: states and operands that meet the hypotheses of each statement, clause by clause -/

/-- A meaning answers a next state. -/
theorem exec_after (i : Instr) (s : State) : exec i s = .next (after i s) := by
  obtain ⟨o, h⟩ := exec_eq_complete i s
  simp [after, h]

/-- A key of the whole KEY buffer. -/
def longKey : State := keyState ((List.range 80).map (BitVec.ofNat 8)) 80 7

theorem witness_DecodeOfEncode : (Instr.illegalRsv 1 6).wf = true ∧ Instr.keyclr.wf = true := by decide

theorem witness_EveryWordDecodesAtIssue :
    State.reset.busy = false ∧
    ((0x8 : Word).extractLsb' 4 28 = 0 ∧ (0x8 : Word).extractLsb' 0 4 = 8) ∧
    9 ≤ ((0x9 : Word).extractLsb' 0 4).toNat ∧ (0x10 : Word).extractLsb' 4 28 ≠ 0 := by decide

theorem witness_StepRunsDecodedCommand :
    (busyState .tdiv).phase = .pending .tdiv State.reset.regs State.reset.wc ∧ (busyState .tdiv).turns = [] ∧
    State.turns { busyState .tdiv with turns := [.engine, .host] } = .engine :: [.host] := by decide

/-- One state for each clause: a read, a write, a poll that ends and one that goes on (mapped and unmapped), a wait that
ends and one that goes on, and a transaction in reset. -/
theorem witness_HostTurnPerformsTransaction :
    let s : State := { State.reset with turns := [.host] }
    let done := s.setRegs { s.regs with ie := true, done := true }
    s.turns = .host :: [] ∧ s.rstN = true ∧ s.program = [] ∧
    (target 0x010).elim 0 s.readReg &&& 1 = 0 ∧ (target 0x010).elim 0 s.readReg &&& 2 ≠ 2 ∧
    (target 0x034).elim 0 s.readReg &&& 1 = 0 ∧
    State.program { s with program := [.rd 0x010] } = .rd 0x010 :: [] ∧
    State.program { s with program := [.wr 0x018 9] } = .wr 0x018 9 :: [] ∧
    State.program { s with program := [.poll 0x010 1 0] } = .poll 0x010 1 0 :: [] ∧
    State.program { s with program := [.poll 0x010 2 2] } = .poll 0x010 2 2 :: [] ∧
    s.irq = false ∧ done.irq = true ∧ done.turns = .host :: [] ∧
    State.program { done with program := [.waitIrq] } = .waitIrq :: [] ∧
    (s.resetPinTurn false).rstN = false ∧ (s.resetPinTurn false).turns = .host :: [] ∧
    HostOp.rd 0x010 ≠ .waitIrq := by decide

theorem witness_IssueTakesSnapshot : State.reset.busy = false ∧ (busyState .nop).busy = true := by decide

/-- A pending command that succeeds, one that fails, and one that sets MATCH (`test_verify_window` shows a match). -/
theorem witness_CompletionIsFunctionOfSnapshot :
    (busyState .tdiv).phase = .pending .tdiv State.reset.regs State.reset.wc ∧
    (after .tdiv (busyState .tdiv)).regs.err = .ok ∧ (after .b32dec (busyState .b32dec)).regs.err ≠ .ok := by
  decide

theorem witness_DoneSetAndCleared : State.reset.busy = false ∧ (0x2 : Word).getLsbD 1 = true := by decide

theorem witness_ErrorCommitsNothing :
    exec .b32dec State.reset = .next (after .b32dec State.reset) ∧ (after .b32dec State.reset).regs.err ≠ .ok :=
  ⟨exec_after _ _, by decide⟩

/-- A completion that changes a byte of CODESTR, and one that changes a byte of KEY. -/
theorem witness_CommandsWriteOnlyTheirResults :
    exec .trunc (digestState 0 1) = .next (after .trunc (digestState 0 1)) ∧
    (after .trunc (digestState 0 1)).regs.mem.read 0x0A0 ≠ (digestState 0 1).regs.mem.read 0x0A0 ∧
    exec .keyclr longKey = .next (after .keyclr longKey) ∧
    (after .keyclr longKey).regs.mem.read 0x1CF ≠ longKey.regs.mem.read 0x1CF :=
  ⟨exec_after _ _, by decide +kernel, exec_after _ _, by decide +kernel⟩

/-- Two snapshots that differ, and agree on what each command reads. -/
theorem witness_CommandsReadOnlyTheirOperands :
    let r := (docState 5 ⟨true, 9⟩).regs
    let r' : Regs := { r with offset := 3, timeHi := 4, matchctrLo := 8 }
    r ≠ r' ∧ r.seclen = r'.seclen ∧ r.secretText = r'.secretText ∧ r.keylen = r'.keylen ∧ r.keyBytes = r'.keyBytes ∧
    r.counter = r'.counter ∧ r.digits = r'.digits ∧ r.digestBytes = r'.digestBytes ∧ r.tslice = r'.tslice ∧
    r.candlen = r'.candlen ∧ r.candidate r.digitCount = r'.candidate r.digitCount ∧ r.disc = r'.disc := by
  decide +kernel

theorem witness_CommandsReadOnlyTheirOperands_tdiv :
    let r := Regs.reset
    let r' : Regs := { r with seclen := 3 }
    r ≠ r' ∧ r.time = r'.time := by decide

theorem witness_NopOnlyCompletes : State.reset.busy = false ∧ (busyState .hotp).busy = true := by decide

theorem witness_KeyclrClearsKey : longKey.regs.mem.wf = true ∧ longKey.regs.keylen = 80 := by decide +kernel

theorem witness_HmacWritesDigest :
    longKey.regs.mem.wf = true ∧ longKey.snapshot.keylen.toNat ≤ 80 ∧
    (keyState [] 81 0).regs.mem.wf = true ∧ 80 < (keyState [] 81 0).snapshot.keylen.toNat := by decide +kernel

/-- The least and the largest digit count; `witness_ErrorPrecedence` has 0 and 11. -/
theorem witness_TruncWritesCode :
    [1, 10].all (fun n =>
      (digestState 0xffffffff0f n).regs.mem.wf && decide (1 ≤ (digestState 0xffffffff0f n).snapshot.digits.toNat) &&
        decide ((digestState 0xffffffff0f n).snapshot.digits.toNat ≤ 10)) = true := by decide +kernel

/-- KEYLEN 80; `witness_ErrorPrecedence` has the states of the error clauses. -/
theorem witness_HotpWritesCode :
    longKey.regs.mem.wf = true ∧ 1 ≤ longKey.snapshot.digits.toNat ∧ longKey.snapshot.digits.toNat ≤ 10 ∧
    longKey.snapshot.keylen.toNat ≤ 80 := by decide +kernel

theorem witness_HotpIsHmacThenTrunc :
    longKey.busy = false ∧ longKey.regs.mem.wf = true ∧ 1 ≤ longKey.regs.digits.toNat ∧
    longKey.regs.digits.toNat ≤ 10 ∧ longKey.regs.keylen.toNat ≤ 80 := by decide +kernel

theorem witness_B32decWritesKey :
    (docState 0 ⟨false, 0⟩).regs.mem.wf = true ∧ b32decode (docState 0 ⟨false, 0⟩).snapshot = .ok keyDoc ∧
    b32decode State.reset.snapshot = .error ⟨.invalidSecretLength, 0⟩ := by decide +kernel

/-- With the override, and with the clock; the error clauses are met by the states of `witness_ErrorPrecedence`. -/
theorem witness_GetcodeWritesCode :
    (let s := docState 7 ⟨false, 0⟩
     s.regs.mem.wf = true ∧ s.snapshot.digits.toNat = 6 ∧ b32decode s.snapshot = .ok keyDoc ∧
       s.snapshot.tslice ≠ 0 ∧ (7 : DWord) = s.snapshot.tslice) ∧
    (let s := docState 0 ⟨true, 210⟩
     s.regs.mem.wf = true ∧ s.snapshot.digits.toNat = 6 ∧ b32decode s.snapshot = .ok keyDoc ∧
       s.snapshot.tslice = 0 ∧ s.sample.valid = true ∧ (7 : DWord).toNat = s.sample.seconds.toNat / 30) := by
  decide +kernel

/-- "559389" near its counter: a match (`test_verify_window`); "000000": none (Y6). -/
theorem witness_VerifyFindsLeastMatch :
    [verifyState 0x353539333839 50787021 1, verifyState 0x303030303030 50787021 1].all (fun s =>
      decide (1 ≤ s.snapshot.digits.toNat) && decide (s.snapshot.digits.toNat ≤ 10) &&
        decide (b32decode s.snapshot = .ok keyDoc) && decide (s.snapshot.candlen.toNat = s.snapshot.digits.toNat) &&
        decide (resolve s.snapshot.tslice s.sample = .ok 50787021)) = true := by decide +kernel

/-- Y17: the gate with no clock. -/
theorem witness_VerifyLengthGate :
    let s := docState 0 ⟨false, 0⟩ fun r => { r with candlen := 5 }
    1 ≤ s.snapshot.digits.toNat ∧ s.snapshot.digits.toNat ≤ 10 ∧ b32decode s.snapshot = .ok keyDoc ∧
    s.snapshot.candlen.toNat ≠ s.snapshot.digits.toNat := by decide +kernel

theorem witness_ReservedWordsReportIllegalCommand :
    (0x00000010 : Word).extractLsb' 4 28 ≠ 0 ∧ 9 ≤ ((0x0000000F : Word).extractLsb' 0 4).toNat := by decide

/-- Digits 0 and 11; a key length of 81; a secret too short; no clock, with the length gate passed. -/
theorem witness_ErrorPrecedence :
    [0, 11].all (fun n => (digestState 0 n).regs.mem.wf && decide ((digestState 0 n).snapshot.digits.toNat < 1 ∨
      10 < (digestState 0 n).snapshot.digits.toNat)) = true ∧
    (keyState [] 81 0).regs.mem.wf = true ∧ (secretState 15 0).regs.mem.wf = true ∧
    (keyState [] 81 0).snapshot.digits.toNat = 6 ∧ 80 < (keyState [] 81 0).snapshot.keylen.toNat ∧
    (secretState 15 0).snapshot.digits.toNat = 6 ∧
    b32decode (secretState 15 0).snapshot = .error ⟨.invalidSecretLength, 15⟩ ∧
    (let s := docState 0 ⟨false, 0⟩ fun r => { r with candlen := 6 }
     s.regs.mem.wf = true ∧ s.snapshot.digits.toNat = 6 ∧ b32decode s.snapshot = .ok keyDoc ∧ s.snapshot.tslice = 0 ∧
       s.sample.valid = false ∧ s.snapshot.candlen.toNat = 6) := by decide +kernel

/-- Lengths 15 and 129, and 16 with an error in the text (B9, lowercase at 3). -/
theorem witness_SecretLengthCheckedFirst :
    (secretState 15 0).regs.seclen.toNat < 16 ∧ 128 < (secretState 129 0).regs.seclen.toNat ∧
    (let r := (secretState 16 0x41414161414141414141414141414141).regs
     16 ≤ r.seclen.toNat ∧ r.seclen.toNat ≤ 128 ∧ b32decode r = .error ⟨.invalidSecretEncoding, 0x103⟩) := by
  decide +kernel

/-- B9 (position 3), and position 127 of a text of 128 characters. -/
theorem witness_FirstBadCharacterReported :
    (let r := (secretState 16 0x41414161414141414141414141414141).regs
     (∀ j, j < 3 → inAlphabet (r.mem.read (0x100 + j)) = true) ∧ inAlphabet (r.mem.read (0x100 + 3)) = false) ∧
    (let r := (loaded [(.secret, List.replicate 127 0x41)] fun r => { r with seclen := 128 }).regs
     (List.range 127).all (fun j => inAlphabet (r.mem.read (0x100 + j))) = true ∧
       inAlphabet (r.mem.read (0x100 + 127)) = false) ∧
    0x61 ≤ (0x61 : Byte).toNat ∧ (0x7A : Byte).toNat ≤ 0x7A := by decide +kernel

/-- B11 (length 17), B13 (a pad at 8), B15 (seven pads), and only pads (B17), each as a loaded secret. -/
theorem witness_MalformedPaddingReported :
    (let r := (secretState 17 0x4141414141414141414141414141414141).regs
     r.seclen.toNat = 17 ∧ (r.mem.readBytes 0x100 17).all inAlphabet = true) ∧
    (let r := (secretState 16 0x41414141414141413D41414141414141).regs
     let data := bytesOf 16 0x41414141414141413D41414141414141
     r.seclen.toNat = 16 ∧ r.mem.readBytes 0x100 16 = data ++ List.replicate 0 0x3D ∧ data.all inAlphabet = true ∧
       (∀ b ∈ data.getLast?, b ≠ 0x3D) ∧ (∀ j, j < 8 → data[j]? ≠ some 0x3D) ∧ data[8]? = some 0x3D) ∧
    (let r := (secretState 16 0x4141414141414141413D3D3D3D3D3D3D).regs
     let data := List.replicate 9 (0x41 : Byte)
     r.seclen.toNat = 16 ∧ r.mem.readBytes 0x100 16 = data ++ List.replicate 7 0x3D ∧
       (∀ b ∈ data.getLast?, b ≠ 0x3D) ∧ (∀ b ∈ data, b ≠ 0x3D) ∧ 7 ∉ [0, 1, 3, 4, 6]) ∧
    (let r := (secretState 16 0x3D3D3D3D3D3D3D3D3D3D3D3D3D3D3D3D).regs
     r.seclen.toNat = 16 ∧ r.mem.readBytes 0x100 16 = [] ++ List.replicate 16 0x3D ∧ 16 ∉ [0, 1, 3, 4, 6]) := by
  decide +kernel

theorem witness_UnpackedBitsAreSymbolBits : 15 < 5 * (List.replicate 26 (0x41 : Byte)).length / 8 := by decide

/-- B5: ten characters and six pads, zero leftover bits; B20: one set. -/
theorem witness_LeftoverBitsMustBeZero :
    (let r := (secretState 16 0x4D5A5857365954424F493D3D3D3D3D3D).regs
     let data := bytesOf 10 0x4D5A5857365954424F49
     r.seclen.toNat = 16 ∧ r.mem.readBytes 0x100 16 = data ++ List.replicate 6 0x3D ∧
       (∀ b ∈ data, (symbolValue b).isSome = true) ∧ symbolBits data % 2 ^ (5 * data.length % 8) = 0) ∧
    (let r := (secretState 16 0x4D5A5857365954424F4A3D3D3D3D3D3D).regs
     let data := bytesOf 10 0x4D5A5857365954424F4A
     r.seclen.toNat = 16 ∧ r.mem.readBytes 0x100 16 = data ++ List.replicate 6 0x3D ∧
       (∀ b ∈ data, (symbolValue b).isSome = true) ∧ symbolBits data % 2 ^ (5 * data.length % 8) ≠ 0) := by
  decide +kernel

/-- The shortest key (B5) and the longest (V3). -/
theorem witness_DecodedKeyLength :
    b32decode (secretState 16 0x4D5A5857365954424F493D3D3D3D3D3D).regs = .ok (bytesOf 6 0x666F6F626172) ∧
    b32decode (loaded [(.secret, List.replicate 128 0x41)] fun r => { r with seclen := 128 }).regs =
      .ok (List.replicate 80 0) := by decide +kernel

/-- Two snapshots that differ past SECLEN (B21). -/
theorem witness_AcceptedTextIsUnique :
    let r := (secretState 16 0x4D5A5857365954424F493D3D3D3D3D3D).regs
    let r' : Regs := { r with mem := r.mem.write 0x150 0x21 }
    r ≠ r' ∧ b32decode r = .ok (bytesOf 6 0x666F6F626172) ∧ b32decode r' = .ok (bytesOf 6 0x666F6F626172) := by
  decide +kernel

theorem witness_PaddingFillsBlocks : (List.replicate 56 (0 : Byte)).length < 2 ^ 61 := by decide

theorem witness_ScheduleRecurrence : (List.replicate 64 (0x36 : Byte)).length = 64 := by decide

/-- Keys of exactly 64 bytes and of 65. -/
theorem witness_HmacIsOuterHashOfInnerHash :
    (List.replicate 64 (0 : Byte)).length ≤ 64 ∧ 64 < (List.replicate 65 (0 : Byte)).length := by decide

/-- The working variables of a compression, round by round. -/
def roundsFrom (h : HashState) (blk : List Byte) : Nat → HashState
  | 0 => h
  | t + 1 => sha1Round t ((schedule blk).getD t 0) (roundsFrom h blk t)

/-- The hash states of a message, block by block. -/
def hashFrom (msg : List Byte) : Nat → HashState
  | 0 => sha1Init
  | i + 1 => compress (hashFrom msg i) (((sha1Pad msg).drop (64 * i)).take 64)

theorem witness_Sha1IsItsRoundsOverItsBlocks (h : HashState) (blk msg : List Byte) :
    (let v := roundsFrom h blk
     (v 0).h0 = h.h0 ∧ (v 0).h1 = h.h1 ∧ (v 0).h2 = h.h2 ∧ (v 0).h3 = h.h3 ∧ (v 0).h4 = h.h4 ∧
     ∀ t, t < 80 →
       (v (t + 1)).h0 = (v t).h0.rotateLeft 5 + roundFunction t (v t).h1 (v t).h2 (v t).h3 + (v t).h4 +
         roundConstant t + (schedule blk).getD t 0 ∧
       (v (t + 1)).h1 = (v t).h0 ∧ (v (t + 1)).h2 = (v t).h1.rotateLeft 30 ∧ (v (t + 1)).h3 = (v t).h2 ∧
       (v (t + 1)).h4 = (v t).h3) ∧
    hashFrom msg 0 = ⟨0x67452301, 0xEFCDAB89, 0x98BADCFE, 0x10325476, 0xC3D2E1F0⟩ ∧
    ∀ i, i < (sha1Pad msg).length / 64 →
      hashFrom msg (i + 1) = compress (hashFrom msg i) (((sha1Pad msg).drop (64 * i)).take 64) :=
  ⟨⟨rfl, rfl, rfl, rfl, rfl, fun _ _ => ⟨rfl, rfl, rfl, rfl, rfl⟩⟩, rfl, fun _ _ => rfl⟩

/-- Two digests that differ outside the window and in the high nibble of byte 19. -/
theorem witness_TruncationReadsItsWindow :
    let d := bytesOf 20 0xffffffff0f
    let d' := bytesOf 20 0x01000000000000000000000000000000ffffffff1f
    d ≠ d' ∧ (d.getD 19 0).toNat % 16 = (d'.getD 19 0).toNat % 16 ∧
    ∀ k, k < 4 → d.getD ((d.getD 19 0).toNat % 16 + k) 0 = d'.getD ((d.getD 19 0).toNat % 16 + k) 0 := by
  decide +kernel

theorem witness_RenderingLosesNothing : 999999 < 10 ^ 6 ∧ 0 < 10 ^ 0 := by decide

theorem witness_DividerSlices :
    30 * (2 : DWord).toNat ≤ (89 : DWord).toNat ∧ (89 : DWord).toNat ≤ 30 * (2 : DWord).toNat + 29 ∧
    (29 : DWord).toNat ≤ (30 : DWord).toNat := by decide

/-- GETCODE at 50787021, then a VERIFY of its code "224124" (V4). -/
theorem witness_OwnCodeVerifies :
    let s := docState 50787021 ⟨false, 0⟩
    let t := after .getcode s
    let v := verifyState 0x323234313234 50787021 0
    s.regs.mem.wf = true ∧ s.snapshot.tslice ≠ 0 ∧ exec .getcode s = .next t ∧ t.regs.err = .ok ∧
    v.snapshot.digits = s.snapshot.digits ∧ v.snapshot.seclen = s.snapshot.seclen ∧
    v.snapshot.secretText = s.snapshot.secretText ∧ v.snapshot.tslice = s.snapshot.tslice ∧
    v.snapshot.candlen.toNat = s.snapshot.digits.toNat ∧
    v.snapshot.candidate s.snapshot.digitCount = t.regs.bytes .codestr s.snapshot.digitCount ∧
    v.snapshot.disc = 0 :=
  ⟨by decide +kernel, by decide +kernel, exec_after _ _, by decide +kernel, by decide +kernel, by decide +kernel,
    by decide +kernel, by decide +kernel, by decide +kernel, by decide +kernel, by decide +kernel⟩

/-- Y2: the candidate is the code of 50787022; Y6: no counter of the window has the candidate. -/
theorem witness_WindowTolerance :
    (let v := verifyState 0x353539333839 50787021 1
     v.snapshot.digits.toNat = 6 ∧ b32decode v.snapshot = .ok keyDoc ∧ v.snapshot.tslice ≠ 0 ∧
       v.snapshot.candlen.toNat = v.snapshot.digits.toNat ∧
       50787022 ≤ v.snapshot.tslice.toNat + v.snapshot.disc.toNat ∧
       v.snapshot.candidate v.snapshot.digitCount = sliceCode keyDoc 50787022 v.snapshot.digitCount) ∧
    (let v := verifyState 0x303030303030 50787021 1
     v.snapshot.tslice.toNat = 50787021 ∧ v.snapshot.disc.toNat = 1 ∧
       [50787020, 50787021, 50787022].all (fun x =>
         decide (v.snapshot.candidate v.snapshot.digitCount ≠ sliceCode keyDoc x v.snapshot.digitCount)) = true) := by
  decide +kernel

theorem witness_GetcodeIsB32decThenHotp :
    let s := docState 50787021 ⟨false, 0⟩
    let t := after .getcode (s.busWrite 0x00C 0x6)
    s.busy = false ∧ s.regs.mem.wf = true ∧ s.regs.tslice ≠ 0 ∧
    exec .getcode (s.busWrite 0x00C 0x6) = .next t ∧ t.regs.err = .ok :=
  ⟨by decide +kernel, by decide +kernel, by decide +kernel, exec_after _ _, by decide +kernel⟩

/-- The first and the last offset of each gap are unmapped, and those of each mapped range are mapped. -/
theorem witness_BusFollowsTheRegisterMap :
    [(0x001 : Addr), 0x034, 0x03C, 0x068, 0x07C, 0x094, 0x09C, 0x0AC, 0x0BC, 0x0FC, 0x1D0, 0xFFC].all (fun off =>
      (target off).isNone) = true ∧
    [(0x000 : Addr), 0x030, 0x040, 0x064, 0x080, 0x090, 0x0A0, 0x0A8, 0x0B0, 0x0B8, 0x100, 0x17C, 0x180,
      0x1CC].all (fun off => (target off).isSome) = true := by decide +kernel

/-- Busy with CFG unlocked; CTRL and STATUS, with both values of bit 1. -/
theorem witness_BusyWritesIgnored :
    (busyState .nop).busy = true ∧ target 0x018 = some .seclen ∧ target 0x1CC = some (.bufWord .key 19) ∧
    target 0x004 = some .ctrl ∧ target 0x010 = some .status ∧
    (1 : Word).getLsbD 1 = false ∧ (2 : Word).getLsbD 1 = true := by decide

theorem witness_RegistersFollowTheirAccessType : State.reset.busy = false ∧ longKey.busy = false := by decide +kernel

/-- The last words of KEY and of CODESTR. -/
theorem witness_BufferLanes :
    4 * 2 + 4 ≤ Buf.codestr.size ∧ longKey.busy = false ∧ longKey.regs.mem.wf = true ∧ Buf.key ≠ .codestr ∧ 4 * 19 + 4 ≤ Buf.key.size := by
  decide +kernel

theorem witness_CfgLocks :
    State.reset.busy = false ∧ State.reset.regs.lock = false ∧
    (State.reset.busWrite 0x008 0x80000006).busy = false ∧
    (State.reset.busWrite 0x008 0x80000006).regs.lock = true ∧
    ((State.reset.busWrite 0x008 0x80000006).busWrite 0x00C 0).busy = true ∧
    ((State.reset.busWrite 0x008 0x80000006).busWrite 0x00C 0).regs.lock = true := by decide

/-- A locked block whose host writes CTRL without SRST, with a reset pin turn and a soft reset still to come. -/
theorem witness_LockedCfgKeptByEveryStep :
    let s : State :=
      { State.reset.busWrite 0x008 0x80000006 with
        program := [.wr 0x004 1, .wr 0x004 2], turns := [.host, .resetPin false] }
    s.regs.lock = true ∧
    step s = .next (State.busWrite { s with program := [.wr 0x004 2], turns := [.resetPin false] } 0x004 1) ∧
    (∀ level, s.nextTurn = .resetPin level → level = true ∧ s.rstN = true) ∧
    (s.nextTurn = .host → ∀ v rest, s.program = .wr 0x004 v :: rest → v.getLsbD 1 = false) := by
  refine ⟨by decide, rfl, fun level h => ?_, fun _ v rest h => ?_⟩
  · exact absurd h (by simp [State.nextTurn])
  · simp only [List.cons.injEq, HostOp.wr.injEq] at h
    rw [← h.1.2]
    decide

/-- The same premise where the step is a pin turn that leaves rst_n at 1. -/
theorem witness_LockedCfgKeptByEveryStep_pin :
    let s : State := { State.reset.busWrite 0x008 0x80000006 with turns := [.resetPin true] }
    s.regs.lock = true ∧ s.nextTurn = .resetPin true ∧ s.rstN = true := by decide

theorem witness_CtrlAndInterrupt : (1 : Word).getLsbD 1 = false ∧ (3 : Word).getLsbD 1 = true := by decide

/-- A text that fills SECRET, and one that ends inside a word. -/
theorem witness_HostFormsStoreTheirValues :
    State.reset.busy = false ∧ State.reset.regs.mem.wf = true ∧ (Buf.secret ≠ .codestr) ∧
    (List.replicate 128 (0x41 : Byte)).length ≤ Buf.secret.size ∧ [(0x41 : Byte)].length ≤ Buf.secret.size := by
  decide +kernel

theorem witness_ResetValues : target 0x000 = some .id ∧ target 0x008 = some .cfg ∧
    target 0x1CC = some (.bufWord .key 19) := by decide

theorem witness_SoftResetIsHardReset :
    (2 : Word).getLsbD 1 = true ∧ (State.reset.resetPinTurn false).rstN = false := by decide

/-- A state with a key, a busy state, and a state after a result. -/
theorem witness_StepKeepsBuffers :
    longKey.regs.buffersKept = true ∧ step longKey = .next longKey := ⟨by decide +kernel, rfl⟩

/-- Busy before and after: the host sets IE while the command is pending. -/
theorem witness_StepKeepsSnapshotEqualToRegisters :
    let s : State := { busyState .hmac with program := [.wr 0x004 1], turns := [.host] }
    s.pendingKept = true ∧ step s = .next (State.busWrite { s with program := [], turns := [] } 0x004 1) ∧
    (State.busWrite { s with program := [], turns := [] } 0x004 1).busy = true := ⟨by decide, rfl, by decide⟩

theorem witness_StepKeepsResultRegisters :
    let s := after .trunc (digestState 0xffffffff0f 6)
    s.regs.bincodeKept = true ∧ s.regs.errorKept = true ∧ s.regs.trunc = 0xFFFFFFFF ∧ step s = .next s :=
  ⟨by decide +kernel, by decide +kernel, by decide +kernel, rfl⟩

/-- In reset, with the clock port about to move. -/
theorem witness_StepKeepsReset :
    let s : State := { State.reset.resetPinTurn false with turns := [.clock ⟨true, 5⟩] }
    s.resetKept = true ∧ s.rstN = false ∧ step s = .next { s with turns := [], wc := ⟨true, 5⟩ } :=
  ⟨by decide, by decide, rfl⟩

/-- The host sets IE while the command is pending, and a pin turn leaves rst_n at 1. -/
theorem witness_PendingCommandCompletes :
    let s : State :=
      { busyState .nop with turns := [.host, .resetPin true, .clock ⟨true, 5⟩], program := [.wr 0x004 1] }
    s.busy = true ∧ s.rstN = true ∧ (∀ level, Turn.resetPin level ∈ s.turns → level = true) ∧
    (∀ v, HostOp.wr 0x004 v ∈ s.program → v.getLsbD 1 = false) := by
  refine ⟨by decide, by decide, fun level h => ?_, fun v h => ?_⟩
  · have h' : Turn.resetPin level ∈ [Turn.host, .resetPin true, .clock ⟨true, 5⟩] := h
    simpa using h'
  · have h' : HostOp.wr 0x004 v ∈ [HostOp.wr 0x004 1] := h
    simp only [List.mem_singleton, HostOp.wr.injEq, true_and] at h'
    rw [h']
    decide

/-- A command placed on the reset state runs as the first step. -/
theorem test_first_step_runs : step (State.reset.withFetchWord 32 5) = exec .tdiv (State.reset.issue 5) := rfl

end Sys2Proof.Tests
end

section
/-! PROOF. STATUS.DONE, from what each event that touches it does to the registers (10_state R30). -/

namespace Sys2Proof.Machine

/-! ## Completion -/

/-- 60_exceptions R224 (error) and R236 (success). -/
@[simp] theorem Regs.complete_done (r : Regs) (o : RunOutcome) : (r.complete o).done = true := by
  cases o with
  | error e => simp
  | ok c => simp

/-- CTRL.IE is no result of a command (10_state R62), so irq after a completion is IE before it. -/
@[simp] theorem Regs.complete_ie (r : Regs) (o : RunOutcome) : (r.complete o).ie = r.ie := by
  cases o with
  | error e => simp
  | ok c => simp

/-! ## Writes of CTRL, CMD and STATUS at their offsets, and the reset pin -/

theorem State.busWrite_status (s : State) (v : Word) :
    s.busWrite 0x010 v = (s.writeStatus v).respond (.write false) :=
  State.busWrite_mapped v (n := .status) (by decide)

theorem State.busWrite_ctrl (s : State) (v : Word) :
    s.busWrite 0x004 v = (s.writeCtrl v).respond (.write false) :=
  State.busWrite_mapped v (n := .ctrl) (by decide)

theorem State.busWrite_cmd_idle {s : State} (w : Word) (h : s.busy = false) :
    s.busWrite 0x00C w = (s.issue w).respond (.write false) := by
  rw [State.busWrite_mapped w (n := .cmd) (by decide), State.writeReg_cmd_idle w h]

@[simp] theorem State.writeStatus_regs (s : State) (v : Word) :
    (s.writeStatus v).regs = s.regs.clearStatus v := rfl

/-- SRST is the block's reset (70_reset R252). -/
theorem State.writeCtrl_srst (s : State) {v : Word} (h : v.getLsbD 1 = true) : s.writeCtrl v = s.blockReset :=
  if_pos h

/-- A low rst_n puts every register at its reset value (70_reset R250). -/
@[simp] theorem State.resetPinTurn_false_regs (s : State) : (s.resetPinTurn false).regs = Regs.reset := rfl

@[simp] theorem Regs.reset_done : Regs.reset.done = false := rfl

/-! ## The statement -/

/-- Settles O9: every command ends in a completion, and each of the other events is one update of the registers whose
DONE is known. -/
theorem doneSetAndCleared : Obligations.DoneSetAndCleared := by
  refine ⟨fun i s => ?completion, fun s v => ?w1c, fun s w hidle => ?issue, fun s v hsrst => ?softReset,
    fun s => ?hardReset⟩
  case completion =>
    obtain ⟨o, ho⟩ := exec_eq_complete i s
    exact ⟨s.complete o, ho, by simp, by simp [State.irq]⟩
  case w1c =>
    rw [State.busWrite_status, State.respond_regs, State.writeStatus_regs, Regs.clearStatus_done, bitOf]
  case issue => rw [State.busWrite_cmd_idle w hidle, State.respond_regs, State.issue_regs, Regs.flagsAtIssue_done]
  case softReset =>
    rw [State.busWrite_ctrl, State.writeCtrl_srst s hsrst, State.respond_regs, State.blockReset_regs, Regs.reset_done]
  case hardReset => rw [State.resetPinTurn_false_regs, Regs.reset_done]

end Sys2Proof.Machine
end

section
/-! PROOF. The register map of the bus (10_state R21, 20_memory R71, R74) and the byte lanes of the buffers
(20_memory R72). -/

namespace Sys2Proof.Machine

/-! ## The register map -/

/-- The aligned offsets of the named registers: the rows of 10_state R21 below the buffers. -/
theorem exists_namedReg_iff {a : Nat} (ha : a % 4 = 0) :
    (∃ n ∈ namedRegs, n.offsetOf = a) ↔ a ≤ 0x030 ∨ (0x040 ≤ a ∧ a ≤ 0x064) := by
  constructor
  · have hrows : ∀ n ∈ namedRegs, n.offsetOf ≤ 0x030 ∨ (0x040 ≤ n.offsetOf ∧ n.offsetOf ≤ 0x064) := by decide
    rintro ⟨n, hn, rfl⟩
    exact hrows n hn
  · intro h
    simp only [namedRegs, List.mem_cons, List.not_mem_nil, or_false, exists_eq_or_imp, exists_eq_left,
      RegName.offsetOf]
    omega

theorem Buf.exists_iff {p : Buf → Prop} :
    (∃ b, p b) ↔ p .digest ∨ p .codestr ∨ p .cand ∨ p .secret ∨ p .key := by
  constructor
  · rintro ⟨b, hb⟩
    cases b <;> simp [hb]
  · rintro (h | h | h | h | h) <;> exact ⟨_, h⟩

/-- The extent of each buffer in the window (10_state R21). -/
theorem exists_holds_iff (a : Nat) :
    (∃ b : Buf, b.holds a = true) ↔
      (0x080 ≤ a ∧ a < 0x094) ∨ (0x0A0 ≤ a ∧ a < 0x0AC) ∨ (0x0B0 ≤ a ∧ a < 0x0BC) ∨ (0x100 ≤ a ∧ a < 0x180) ∨
        (0x180 ≤ a ∧ a < 0x1D0) := by
  simp only [Buf.exists_iff, Buf.holds_iff, Buf.base, Buf.size, Nat.reduceAdd]

theorem Buf.extents_disjoint {b b' : Buf} (h : b' ≠ b) :
    b'.base + b'.size ≤ b.base ∨ b.base + b.size ≤ b'.base := by
  cases b <;> cases b' <;> revert h <;> decide

theorem Buf.not_holds_of_ne {b b' : Buf} {a : Nat} (hne : b' ≠ b) (h : b.holds a = true) : ¬ b'.holds a = true := by
  rw [Buf.holds_iff] at h ⊢
  have := Buf.extents_disjoint hne
  omega

theorem bufWordAt_of_holds {b : Buf} {a : Nat} (h : b.holds a = true) :
    bufWordAt b a = some (.bufWord b ((a - b.base) / 4)) :=
  if_pos ((b.holds_iff a).1 h)

theorem bufWordAt_eq_none_iff (b : Buf) (a : Nat) : bufWordAt b a = none ↔ ¬ b.holds a = true := by
  simp [bufWordAt, Buf.holds_iff]

/-- An offset is unmapped when it is that of no named register and lies in no buffer. -/
theorem regAt_eq_none_iff (a : Nat) :
    regAt a = none ↔ ¬ (∃ n ∈ namedRegs, n.offsetOf = a) ∧ ¬ ∃ b : Buf, b.holds a = true := by
  simp only [regAt, Option.orElse_eq_orElse, Option.orElse_eq_or, Option.or_eq_none_iff, List.find?_eq_none,
    beq_iff_eq, bufWordAt_eq_none_iff, Buf.exists_iff, not_or, not_exists, not_and]

/-- Inside a buffer an offset names the buffer's word. -/
theorem regAt_of_holds {b : Buf} {a : Nat} (h : b.holds a = true) : regAt a = bufWordAt b a := by
  have hnamed : (namedRegs.find? fun n => n.offsetOf == a) = none := by
    have hlow : ∀ n ∈ namedRegs, n.offsetOf < 0x080 := by decide
    have ha : 0x080 ≤ a := by
      have := (exists_holds_iff a).1 ⟨b, h⟩
      omega
    rw [List.find?_eq_none]
    intro n hn
    have := hlow n hn
    simpa using (by omega : n.offsetOf ≠ a)
  have hother : ∀ b', b' ≠ b → bufWordAt b' a = none := fun b' hne =>
    (bufWordAt_eq_none_iff b' a).2 (Buf.not_holds_of_ne hne h)
  cases b <;> simp [regAt, hnamed, hother]

/-- A transaction reaches no register when it is misaligned (20_memory R71) or its offset is in a gap of the map
(R74). -/
theorem target_eq_none_iff (off : Addr) :
    target off = none ↔ off.toNat % 4 ≠ 0 ∨ regAt off.toNat = none := by
  unfold target
  split <;> simp [*]

/-- Word `k` of a buffer is at its base offset + 4k (20_memory R72). -/
theorem target_bufWord {b : Buf} {k : Nat} (hk : 4 * k + 4 ≤ b.size) :
    target (BitVec.ofNat 12 (b.base + 4 * k)) = some (.bufWord b k) := by
  have hholds : b.holds (b.base + 4 * k) = true := (b.holds_iff _).2 ⟨by omega, by omega⟩
  have hwindow : b.base + b.size ≤ 0x1D0 := by cases b <;> decide
  have haligned : b.base % 4 = 0 := by cases b <;> rfl
  have hoff : (BitVec.ofNat 12 (b.base + 4 * k)).toNat = b.base + 4 * k := by
    rw [BitVec.toNat_ofNat]
    omega
  rw [target, hoff, if_pos (by omega), regAt_of_holds hholds, bufWordAt_of_holds hholds, Nat.add_sub_cancel_left,
    Nat.mul_div_cancel_left k (by decide)]

/-! ## The byte lanes -/

theorem toNat_laneWord (b0 b1 b2 b3 : Byte) :
    (laneWord b0 b1 b2 b3).toNat = b3.toNat * 2 ^ 24 + b2.toNat * 2 ^ 16 + b1.toNat * 2 ^ 8 + b0.toNat := by
  have happend : ∀ {n : Nat} (x : BitVec n) (y : Byte), (x ++ y).toNat = x.toNat * 2 ^ 8 + y.toNat := by
    intro n x y
    rw [BitVec.toNat_append, ← Nat.shiftLeft_add_eq_or_of_lt y.isLt, Nat.shiftLeft_eq]
  rw [laneWord, happend, happend, happend]
  omega

theorem getElem_laneBytes (v : Word) (j : Nat) (hj : j < (laneBytes v).length) :
    (laneBytes v)[j] = v.extractLsb' (8 * j) 8 := by
  match j, hj with
  | 0, _ | 1, _ | 2, _ | 3, _ => rfl

/-- The four lanes of a word, joined, are the word. -/
theorem laneWord_extractLsb' (v : Word) :
    laneWord (v.extractLsb' 0 8) (v.extractLsb' 8 8) (v.extractLsb' 16 8) (v.extractLsb' 24 8) = v := by
  apply BitVec.eq_of_toNat_eq
  simp only [toNat_laneWord, BitVec.extractLsb'_toNat, Nat.shiftRight_eq_div_pow]
  omega

/-! ## Buffer words -/

/-- A word's lanes are stored lowest first (20_memory R72). -/
theorem Memory.read_writeBytes_lane {m : Memory} (a : Nat) (v : Word) {j : Nat} (hj : j < 4) (h : m.wf = true) :
    (m.writeBytes a (laneBytes v)).read (a + j) = v.extractLsb' (8 * j) 8 :=
  (Memory.read_writeBytes_inside a (laneBytes v) j hj h).trans (getElem_laneBytes v j hj)

theorem Memory.sameOutside_writeBytes (m : Memory) (a : Nat) (bs : List Byte) :
    sameOutside m (m.writeBytes a bs) a bs.length :=
  fun _ h => Memory.read_writeBytes_outside m a bs h

/-- A stored buffer word reads back. -/
theorem Regs.bufWord_store_same {r : Regs} (b : Buf) (k : Nat) (v : Word) (h : r.mem.wf = true) :
    (r.store (.bufWord b k) v).bufWord b k = v := by
  have hlane {j : Nat} (hj : j < 4) := Memory.read_writeBytes_lane (b.base + 4 * k) v hj h
  have hlane0 := hlane (j := 0) (by decide)
  rw [Nat.add_zero] at hlane0
  rw [Regs.bufWord, Regs.store, hlane0, hlane (j := 1) (by decide), hlane (j := 2) (by decide),
    hlane (j := 3) (by decide)]
  exact laneWord_extractLsb' v

/-- All buffers but CODESTR are writable (10_state R22). -/
theorem access_bufWord {b : Buf} (k : Nat) (h : b ≠ .codestr) : (RegName.bufWord b k).access = .rw := by
  cases b with
  | codestr => exact absurd rfl h
  | digest | cand | secret | key => rfl

/-! ## The statements -/

/-- Settles O43: the rows and the gaps of the map share out the aligned offsets, and a transaction gets ERROR exactly
when it has no target. -/
theorem busFollowsTheRegisterMap : Obligations.BusFollowsTheRegisterMap := by
  intro s off v
  have hnamed := exists_namedReg_iff (a := off.toNat)
  have hbuf := exists_holds_iff off.toNat
  constructor
  · intro hgap
    have hnone : target off = none := by
      rw [target_eq_none_iff, regAt_eq_none_iff, hbuf]
      by_cases ha : off.toNat % 4 = 0
      · rw [hnamed ha]
        omega
      · exact .inl ha
    exact ⟨State.busRead_unmapped hnone, State.busWrite_unmapped v hnone⟩
  · intro ha hrow
    have hsome : target off ≠ none := by
      rw [ne_eq, target_eq_none_iff, regAt_eq_none_iff, hbuf, hnamed ha]
      omega
    obtain ⟨n, hn⟩ := Option.ne_none_iff_exists'.1 hsome
    refine ⟨n, hn, (offsetOf_of_target hn).2, State.busRead_mapped hn, ?_⟩
    rw [State.busWrite_mapped v hn, State.respond_response]

/-- Settles O46: a buffer word is its four lanes, read and written at its target. -/
theorem bufferLanes : Obligations.BufferLanes := by
  refine ⟨⟨rfl, rfl, rfl, rfl, rfl⟩, fun s b k hk => ?read, fun s b k v hidle hwf hrw hk => ?write⟩
  case read =>
    refine ⟨s.regs.bufWord b k, ?_, toNat_laneWord _ _ _ _⟩
    rw [State.busRead_mapped (target_bufWord hk), State.respond_response, State.readReg]
  case write =>
    refine ⟨s.regs.mem.writeBytes (b.base + 4 * k) (laneBytes v), ?_,
      fun j hj => Memory.read_writeBytes_lane _ v hj hwf, Memory.sameOutside_writeBytes _ _ _,
      Regs.bufWord_store_same b k v hwf⟩
    rw [State.busWrite_mapped v (target_bufWord hk), State.writeReg_rw_idle v hidle (access_bufWord k hrw)]
    rfl

end Sys2Proof.Machine
end

section
/-! PROOF. The decoding of every word (30_encoding R101, R102), and the completion of the reserved and illegal words
(R103). -/

namespace Sys2Proof

/-! ## The two fields of a word -/

theorem decodeWord_of_rsv_zero {w : Word} (h : rsvField w = 0) : decodeWord w = decodeOp (opField w) := if_pos h

theorem decodeWord_of_rsv_ne_zero {w : Word} (h : rsvField w ≠ 0) :
    decodeWord w = .illegalRsv (rsvField w) (opField w) := if_neg h

@[simp] theorem rsvBits_decodeOp (op : BitVec 4) : (decodeOp op).rsvBits = 0 := by
  revert op
  decide

@[simp] theorem opNumber_decodeOp (op : BitVec 4) : (decodeOp op).opNumber = op := by
  revert op
  decide

theorem rsvBits_decodeWord (w : Word) : (decodeWord w).rsvBits = rsvField w := by
  by_cases h : rsvField w = 0
  · rw [decodeWord_of_rsv_zero h, rsvBits_decodeOp, h]
  · rw [decodeWord_of_rsv_ne_zero h, Instr.rsvBits]

theorem opNumber_decodeWord (w : Word) : (decodeWord w).opNumber = opField w := by
  by_cases h : rsvField w = 0
  · rw [decodeWord_of_rsv_zero h, opNumber_decodeOp]
  · rw [decodeWord_of_rsv_ne_zero h, Instr.opNumber]

/-- A word is its RSV field above its OP field (R100). -/
theorem rsvField_append_opField (w : Word) : rsvField w ++ opField w = w :=
  BitVec.extractLsb'_append_extractLsb'_eq_extractLsb' (by rfl) |>.trans BitVec.extractLsb'_eq_self

/-- Decoding loses no bit of the word: a completion can report the word that was written (60_exceptions R221). -/
theorem encode_decodeWord (w : Word) : encode (decodeWord w) = w := by
  rw [encode, rsvBits_decodeWord, opNumber_decodeWord, rsvField_append_opField]

/-- The word of an instruction as a number (R100: OP is bits 3:0, RSV the bits above). -/
theorem encode_eq_ofNat (i : Instr) :
    encode i = BitVec.ofNat 32 (16 * i.rsvBits.toNat + i.opNumber.toNat) := by
  apply BitVec.eq_of_toNat_eq
  have hrsv := i.rsvBits.isLt
  have hop := i.opNumber.isLt
  rw [encode, BitVec.toNat_append, ← Nat.shiftLeft_add_eq_or_of_lt hop, Nat.shiftLeft_eq, BitVec.toNat_ofNat]
  omega

/-! ## The words without a command -/

/-- The decodings that R101 calls ILLEGAL: no command of R102 stands behind them (R103). -/
def Instr.isIllegal : Instr → Bool
  | .reserved9 | .reservedAB _ | .reservedCF _ | .illegalRsv _ _ => true
  | .nop | .b32dec | .hmac | .trunc | .hotp | .tdiv | .getcode | .verify | .keyclr => false

theorem isIllegal_decodeOp (op : BitVec 4) : (decodeOp op).isIllegal = true ↔ 9 ≤ op.toNat := by
  revert op
  decide

/-- R101's ILLEGAL words are those with RSV bits and those with an OP of 0x9 to 0xF. -/
theorem isIllegal_decodeWord (w : Word) :
    (decodeWord w).isIllegal = true ↔ rsvField w ≠ 0 ∨ 9 ≤ (opField w).toNat := by
  by_cases h : rsvField w = 0
  · rw [decodeWord_of_rsv_zero h, isIllegal_decodeOp]
    simp [h]
  · rw [decodeWord_of_rsv_ne_zero h]
    exact iff_of_true rfl (.inl h)

end Sys2Proof

namespace Sys2Proof.Machine

/-- An ILLEGAL decoding completes with IllegalCommand and its own word (R103, 60_exceptions R221). -/
theorem exec_of_isIllegal {i : Instr} (h : i.isIllegal = true) (s : State) :
    exec i s = .next (s.failedWith .illegalCommand (encode i)) := by
  cases i with
  | nop | b32dec | hmac | trunc | hotp | tdiv | getcode | verify | keyclr => cases h
  | reserved9 => rw [exec_reserved9, runIllegal, State.complete_error_eq]
  | reservedAB low => rw [exec_reservedAB, runIllegal, State.complete_error_eq]
  | reservedCF low => rw [exec_reservedCF, runIllegal, State.complete_error_eq]
  | illegalRsv rsv op => rw [exec_illegalRsv, runIllegal, State.complete_error_eq]

theorem exec_decodeWord_illegal {w : Word} (h : rsvField w ≠ 0 ∨ 9 ≤ (opField w).toNat) (s : State) :
    exec (decodeWord w) s = .next (s.failedWith .illegalCommand w) := by
  rw [exec_of_isIllegal ((isIllegal_decodeWord w).2 h), encode_decodeWord]

/-! ## The statements -/

/-- Settles O4: a CMD write to the idle engine issues the word's decoding, which is the command of its OP number, or,
for an ILLEGAL word, completes with the word itself. -/
theorem everyWordDecodesAtIssue : Obligations.EveryWordDecodesAtIssue := by
  intro s w hidle
  rw [State.writeReg_cmd_idle w hidle]
  refine ⟨State.issue_phase s w, fun hrsv p hp hop => ?command, fun hillegal => ?illegal⟩
  case command =>
    rw [decodeWord_of_rsv_zero hrsv, opField, hop]
    clear hop
    revert p
    decide
  case illegal =>
    exact ⟨State.busy_issue s w, _, exec_decodeWord_illegal hillegal _, rfl, rfl⟩

/-- Settles O24: every ILLEGAL decoding fails with its own word, and that word is its RSV bits above its OP number. -/
theorem reservedWordsReportIllegalCommand : Obligations.ReservedWordsReportIllegalCommand := by
  refine ⟨fun s w hillegal => exec_decodeWord_illegal hillegal s, fun s => ?reserved9, fun s b => ?reservedAB,
    fun s b => ?reservedCF, fun s rsv op => ?illegalRsv⟩
  case reserved9 => exact exec_of_isIllegal rfl s
  case reservedAB =>
    have hword : ∀ b : BitVec 1, encode (.reservedAB b) = BitVec.ofNat 32 (10 + b.toNat) := by decide
    rw [exec_of_isIllegal rfl s, hword]
  case reservedCF =>
    have hword : ∀ b : BitVec 2, encode (.reservedCF b) = BitVec.ofNat 32 (12 + b.toNat) := by decide
    rw [exec_of_isIllegal rfl s, hword]
  case illegalRsv => rw [exec_of_isIllegal rfl s, encode_eq_ofNat, Instr.rsvBits, Instr.opNumber]

end Sys2Proof.Machine
end

section
/-! PROOF. The checks of the base32 decoder, in their order (40_base32 R121 to R127, R129). -/

namespace Sys2Proof.Machine

/-! ## The error value, the alphabet and the counts -/

/-- The sub-cause and the position do not overlap: the position of a secret of legal length is below 256. -/
theorem encodingError_eq_add (sub : Nat) {pos : Nat} (h : pos ≤ 128) :
    encodingError sub pos = ⟨.invalidSecretEncoding, BitVec.ofNat 32 (sub * 0x100 + pos)⟩ := by
  rw [encodingError, ← Nat.shiftLeft_add_eq_or_of_lt (by omega : pos < 2 ^ 8), Nat.shiftLeft_eq]

theorem isPad_iff (b : Byte) : isPad b = true ↔ b = 0x3D := by
  rw [isPad, beq_iff_eq]

/-- '=' has no symbol value (R120). -/
theorem isPad_of_isSome_symbolValue {b : Byte} (h : (symbolValue b).isSome = true) : isPad b = false := by
  rw [Bool.eq_false_iff, ne_eq, isPad_iff]
  rintro rfl
  revert h
  decide

theorem inAlphabet_of_isSome_symbolValue {b : Byte} (h : (symbolValue b).isSome = true) : inAlphabet b = true := by
  rw [inAlphabet, h, Bool.true_or]

/-- Data symbols with '=' after them are in the alphabet (R120). -/
theorem inAlphabet_of_mem_padded {data : List Byte} {p : Nat} (h : ∀ b ∈ data, (symbolValue b).isSome = true) :
    ∀ b ∈ data ++ List.replicate p (0x3D : Byte), inAlphabet b = true := by
  intro b hb
  rcases List.mem_append.1 hb with hb | hb
  · exact inAlphabet_of_isSome_symbolValue (h b hb)
  · rw [List.eq_of_mem_replicate hb]
    rfl

/-- '2' to '7', 'A' to 'Z' and '=' all lie below 'a' (R120). -/
theorem inAlphabet_of_lowercase {b : Byte} (h : 0x61 ≤ b.toNat) : inAlphabet b = false := by
  have hsym : symbolValue b = none := by
    simp only [symbolValue]
    rw [if_neg (by omega), if_neg (by omega)]
  have hpad : isPad b = false := by
    rw [Bool.eq_false_iff, ne_eq, isPad_iff]
    rintro rfl
    exact absurd h (by decide)
  rw [inAlphabet, hsym, hpad]
  rfl

theorem padCountOk_iff (p : Nat) : padCountOk p = true ↔ p ∈ [0, 1, 3, 4, 6] := by
  simp [padCountOk, or_assoc]

/-- `5n - 8 * floor(5n / 8)` is the remainder (R126). -/
theorem leftoverCount_eq_mod (n : Nat) : leftoverCount n = 5 * n % 8 := by
  rw [leftoverCount, keyCount]
  omega

/-! ## The pad run -/

section
variable {data : List Byte} (h : ∀ b ∈ data.getLast?, b ≠ 0x3D) (p : Nat)
include h

/-- The longest run of '=' at the end of a text (R124). -/
theorem padCount_append_replicate : padCount (data ++ List.replicate p 0x3D) = p := by
  have hpads : ∀ b ∈ List.replicate p (0x3D : Byte), isPad b = true := by
    intro b hb
    rw [List.eq_of_mem_replicate hb]
    rfl
  have hdata : data.reverse.takeWhile isPad = [] := by
    cases hrev : data.reverse with
    | nil => rfl
    | cons b bs =>
      have hlast : data.getLast? = some b := by rw [← List.head?_reverse, hrev, List.head?_cons]
      exact List.takeWhile_cons_of_neg fun hb => h b hlast ((isPad_iff b).1 hb)
  rw [padCount, List.reverse_append, List.reverse_replicate, List.takeWhile_append_of_pos hpads, hdata,
    List.append_nil, List.length_replicate]

theorem dataChars_append_replicate : dataChars (data ++ List.replicate p 0x3D) = data := by
  rw [dataChars, padCount_append_replicate h p, List.length_append, List.length_replicate, Nat.add_sub_cancel,
    List.take_left]

end

/-! ## One answer per check -/

theorem decodeText_of_badCharacter {text : List Byte} {i : Nat}
    (h : text.findIdx? (fun b => !inAlphabet b) = some i) : decodeText text = .error (encodingError 1 i) := by
  simp [decodeText, h]

theorem findIdx?_not_inAlphabet_eq_none {text : List Byte} (h : ∀ b ∈ text, inAlphabet b = true) :
    text.findIdx? (fun b => !inAlphabet b) = none := by
  rw [List.findIdx?_eq_none_iff]
  intro b hb
  rw [h b hb, Bool.not_true]

section
variable {text : List Byte} (halpha : ∀ b ∈ text, inAlphabet b = true)
include halpha

theorem decodeText_of_badLength (h8 : text.length % 8 ≠ 0) :
    decodeText text = .error (encodingError 2 text.length) := by
  simp [decodeText, findIdx?_not_inAlphabet_eq_none halpha, h8]

variable (h8 : text.length % 8 = 0)
include h8

theorem decodeText_of_padInData {i : Nat} (h : (dataChars text).findIdx? isPad = some i) :
    decodeText text = .error (encodingError 3 i) := by
  simp [decodeText, findIdx?_not_inAlphabet_eq_none halpha, h8, h]

variable (hpos : (dataChars text).findIdx? isPad = none)
include hpos

theorem decodeText_of_badPadCount (h : padCountOk (padCount text) = false) :
    decodeText text = .error (encodingError 4 (padCount text)) := by
  simp [decodeText, findIdx?_not_inAlphabet_eq_none halpha, h8, hpos, h]

/-- With all the checks of the padding passed, the leftover bits decide. -/
theorem decodeText_of_wellPadded (h : padCountOk (padCount text) = true) :
    decodeText text =
      if leftoverBits (dataChars text) ≠ 0 then .error (encodingError 5 ((dataChars text).length - 1))
      else .ok (unpackKey (dataChars text)) := by
  simp [decodeText, findIdx?_not_inAlphabet_eq_none halpha, h8, hpos, h]

end

/-! ## The text of a register file -/

/-- SECRET is at offset 0x100 (10_state R50). -/
theorem secretText_eq_readBytes (r : Regs) : r.secretText = r.mem.readBytes 0x100 r.seclen.toNat := rfl

theorem findIdx?_readBytes {m : Memory} {a n i : Nat} {q : Byte → Bool} (hi : i < n)
    (hfirst : ∀ j, j < i → q (m.read (a + j)) = false) (hat : q (m.read (a + i)) = true) :
    (m.readBytes a n).findIdx? q = some i := by
  rw [List.findIdx?_eq_some_iff_getElem]
  refine ⟨by simpa using hi, ?_, fun j hj => ?_⟩
  · rw [Memory.getElem_readBytes, hat]
  · rw [Memory.getElem_readBytes, hfirst j hj]
    exact Bool.false_ne_true

/-- The position of the first '=' by its own words. -/
theorem findIdx?_isPad_eq_some {data : List Byte} {i : Nat} (hfirst : ∀ j, j < i → data[j]? ≠ some 0x3D)
    (hat : data[i]? = some 0x3D) : data.findIdx? isPad = some i := by
  obtain ⟨hi, hat⟩ := List.getElem?_eq_some_iff.1 hat
  rw [List.findIdx?_eq_some_iff_getElem]
  refine ⟨hi, (isPad_iff _).2 hat, fun j hj hpad => hfirst j hj ?_⟩
  rw [List.getElem?_eq_getElem (hj.trans hi), (isPad_iff _).1 hpad]

/-! ## The statements -/

/-- Settles O26: the length error is a function of SECLEN alone, and a text of legal length fails with
InvalidSecretEncoding only. -/
theorem secretLengthCheckedFirst : Obligations.SecretLengthCheckedFirst := by
  intro r
  refine ⟨fun hillegal m => ?_, fun hmin hmax e he => ?_⟩
  · rw [b32decode_of_illegal (r := { r with mem := m }) hillegal, BitVec.ofNat_toNat]
  · rw [b32decode_of_legal hmin hmax] at he
    obtain ⟨sub, pos, rfl, -⟩ := decodeText_error he
    rfl

/-- Settles O27: the first byte outside the alphabet answers the first check of the text. -/
theorem firstBadCharacterReported : Obligations.FirstBadCharacterReported := by
  refine ⟨fun r i hmin hmax hi hfirst hbad => ?_, fun b hlow _ => inAlphabet_of_lowercase hlow⟩
  have hfind : (r.mem.readBytes 0x100 r.seclen.toNat).findIdx? (fun b => !inAlphabet b) = some i :=
    findIdx?_readBytes hi (fun j hj => by rw [hfirst j hj, Bool.not_true]) (by rw [hbad, Bool.not_false])
  rw [b32decode_of_legal hmin hmax, secretText_eq_readBytes, decodeText_of_badCharacter hfind,
    encodingError_eq_add 1 (by omega)]

/-- Settles O28: the length, the pad position and the pad count are checked in this order. -/
theorem malformedPaddingReported : Obligations.MalformedPaddingReported := by
  intro r hmin hmax text halpha
  have hlen : text.length = r.seclen.toNat := Memory.length_readBytes _ _ _
  have hdecode : b32decode r = decodeText text := b32decode_of_legal hmin hmax
  rw [hdecode, ← hlen]
  refine ⟨fun h8 => ?length, fun h8 data p hsplit hlast => ?_⟩
  case length => rw [decodeText_of_badLength halpha h8, encodingError_eq_add 2 (by omega)]
  have hdata : dataChars text = data := hsplit ▸ dataChars_append_replicate hlast p
  have hcount : padCount text = p := hsplit ▸ padCount_append_replicate hlast p
  have hsum : data.length + p = text.length := by simp [hsplit]
  refine ⟨fun i hfirst hat => ?position, fun hnone hp => ?count⟩
  case position =>
    have hi : i < data.length := (List.getElem?_eq_some_iff.1 hat).1
    rw [decodeText_of_padInData halpha h8 (hdata ▸ findIdx?_isPad_eq_some hfirst hat),
      encodingError_eq_add 3 (by omega)]
  case count =>
    have hpos : data.findIdx? isPad = none :=
      List.findIdx?_eq_none_iff.2 fun b hb => Bool.eq_false_iff.2 fun h => hnone b hb ((isPad_iff b).1 h)
    have hbad : padCountOk p = false := Bool.eq_false_iff.2 fun h => hp ((padCountOk_iff p).1 h)
    rw [decodeText_of_badPadCount halpha h8 (hdata ▸ hpos) (hcount ▸ hbad), hcount,
      encodingError_eq_add 4 (by omega)]

/-- Settles O30: data symbols before a legal pad run pass every check but the last, which is on their leftover bits. -/
theorem leftoverBitsMustBeZero : Obligations.LeftoverBitsMustBeZero := by
  intro r data p hmin hmax h8 hsplit hp hsym
  have hnopad : ∀ b ∈ data, isPad b = false := fun b hb => isPad_of_isSome_symbolValue (hsym b hb)
  have hlast : ∀ b ∈ data.getLast?, b ≠ 0x3D := by
    rintro b hb rfl
    exact absurd (hnopad _ (List.mem_of_getLast? hb)) (by decide)
  have hlen : (data ++ List.replicate p (0x3D : Byte)).length = r.seclen.toNat := by
    rw [← hsplit, Memory.length_readBytes]
  have hdata := dataChars_append_replicate hlast p
  have hcount := padCount_append_replicate hlast p
  have hle : data.length ≤ r.seclen.toNat := by
    rw [← hlen, List.length_append]
    omega
  rw [b32decode_of_legal hmin hmax, secretText_eq_readBytes, hsplit,
    decodeText_of_wellPadded (inAlphabet_of_mem_padded hsym) (hlen ▸ h8)
      (hdata.symm ▸ List.findIdx?_eq_none_iff.2 hnopad) (hcount.symm ▸ (padCountOk_iff p).2 hp),
    hdata, encodingError_eq_add 5 (by omega), leftoverBits, leftoverCount_eq_mod]

end Sys2Proof.Machine
end

section
/-! PROOF. The completion of B32DEC (40_base32 R130). -/

namespace Sys2Proof.Machine

/-! ## The decoded key fits KEY -/

theorem seclen_legal_of_b32decode_ok {r : Regs} {key : List Byte} (h : b32decode r = .ok key) :
    16 ≤ r.seclen.toNat ∧ r.seclen.toNat ≤ 128 := by
  by_contra hlegal
  rw [b32decode_of_illegal (by omega)] at h
  cases h

/-- 128 characters give at most 80 bytes (R126, R128). -/
theorem length_le_of_b32decode_ok {r : Regs} {key : List Byte} (h : b32decode r = .ok key) : key.length ≤ 80 := by
  obtain ⟨hmin, hmax⟩ := seclen_legal_of_b32decode_ok h
  rw [b32decode_of_legal hmin hmax, decodeText_ok_iff] at h
  obtain ⟨-, -, -, -, -, rfl⟩ := h
  have hdata : (dataChars r.secretText).length ≤ r.seclen.toNat := by simp [dataChars]
  rw [length_unpackKey, keyCount]
  omega

/-! ## The image of a key in KEY -/

theorem length_keyImage {key : List Byte} (h : key.length ≤ 80) : (keyImage key).length = 80 := by
  rw [keyImage, maxKey, List.length_append, List.length_replicate]
  omega

theorem getElem_keyImage_of_ge {key : List Byte} {j : Nat} (hj : key.length ≤ j) (h : j < (keyImage key).length) :
    (keyImage key)[j] = 0 := by
  simp only [keyImage, List.getElem_append_right hj, List.getElem_replicate]

/-- The first of two byte strings stored one after the other reads back. -/
theorem Memory.readBytes_writeBytes_append {m : Memory} (a : Nat) (bs bs' : List Byte) (h : m.wf = true) :
    (m.writeBytes a (bs ++ bs')).readBytes a bs.length = bs := by
  refine List.ext_getElem (Memory.length_readBytes _ _ _) fun i hi hi' => ?_
  rw [Memory.getElem_readBytes, Memory.read_writeBytes_inside a _ i (by rw [List.length_append]; omega) h,
    List.getElem_append_left hi']

/-! ## The statement -/

/-- Settles O20: a decoded key is one write of its image at KEY, and KEYLEN, of 7 bits, holds its length. -/
theorem b32decWritesKey : Obligations.B32decWritesKey := by
  intro s hwf
  refine ⟨fun e he => ?error, fun key hkey => ?success⟩
  case error => rw [exec_b32dec, runB32dec_error he, State.complete_error_eq]
  case success =>
    have hle := length_le_of_b32decode_ok hkey
    have hlen := length_keyImage hle
    have hkeylen : (BitVec.ofNat 7 key.length).toNat = key.length := by
      rw [BitVec.toNat_ofNat]
      omega
    rw [exec_b32dec, runB32dec_ok hkey, State.complete_ok_unmatched _ _ rfl]
    refine ⟨_, rfl, rfl, hkeylen, ?bytes, fun j hj hj80 => ?zeros, hlen ▸ Memory.sameOutside_writeBytes _ _ _⟩
    case bytes =>
      change (s.regs.mem.writeBytes Buf.key.base (keyImage key)).readBytes Buf.key.base
        (BitVec.ofNat 7 key.length).toNat = key
      rw [hkeylen]
      exact Memory.readBytes_writeBytes_append _ key _ hwf
    case zeros =>
      have hj' : j < (keyImage key).length := by omega
      exact (Memory.read_writeBytes_inside _ _ j hj' hwf).trans (getElem_keyImage_of_ge hj hj')

end Sys2Proof.Machine
end

section
/-! PROOF. The padding of SHA-1 (41_hmac_sha1 R140) and the completion of HMAC (R150). -/

namespace Sys2Proof.Machine

/-! ## The zeros of the padding -/

/-- With its 0x80 and its zeros, a message leaves 8 bytes of the last block for the length (R140). -/
theorem sha1Zeros_fills (m : Nat) : (m + 1 + sha1Zeros m) % 64 = 56 := by
  unfold sha1Zeros
  omega

/-- A count that fills the block is `sha1Zeros m` modulo 64, and `sha1Zeros m` is below 64. -/
theorem sha1Zeros_le {m z : Nat} (h : (m + 1 + z) % 64 = 56) : sha1Zeros m ≤ z := by
  unfold sha1Zeros
  omega

theorem length_sha1Pad (msg : List Byte) :
    (sha1Pad msg).length = msg.length + 1 + sha1Zeros msg.length + 8 := by
  simp only [sha1Pad, List.length_append, List.length_singleton, List.length_replicate, length_be64]

/-! ## The key length error and the digest's place -/

/-- ERRINFO of a key length error is KEYLEN (60_exceptions R221 code 5). -/
theorem keylenError_eq (r : Regs) : keylenError r = ⟨.invalidKeyLength, BitVec.ofNat 32 r.keylen.toNat⟩ := by
  rw [keylenError, BitVec.ofNat_toNat]

theorem Regs.keylenOk_eq_false {r : Regs} (h : 80 < r.keylen.toNat) : r.keylenOk = false :=
  Bool.eq_false_iff.2 fun hok => absurd ((Regs.keylenOk_iff r).1 hok) (by omega)

/-- A digest has 20 bytes, so that DIGEST holds just it once it is stored there. -/
theorem Memory.readBytes_writeBytes_hmacSha1 {m : Memory} (a : Nat) (key msg : List Byte) (h : m.wf = true) :
    (m.writeBytes a (hmacSha1 key msg)).readBytes a 20 = hmacSha1 key msg :=
  length_hmacSha1 key msg ▸ Memory.readBytes_writeBytes a (hmacSha1 key msg) h

/-! ## The statements -/

/-- Settles O33: the least count of zeros is the model's own, and the padded length is then a multiple of 64. -/
theorem paddingFillsBlocks : Obligations.PaddingFillsBlocks := by
  intro msg _
  have hfill := sha1Zeros_fills msg.length
  refine ⟨sha1Zeros msg.length, rfl, hfill, fun z' => sha1Zeros_le, ?_⟩
  rw [length_sha1Pad]
  omega

/-- Settles O16: a KEYLEN that fits is one write of the digest at DIGEST, and any other is the key length error. -/
theorem hmacWritesDigest : Obligations.HmacWritesDigest := by
  intro s hwf
  refine ⟨fun hle => ?success, fun hlong => ?error⟩
  case success =>
    have hframe := Memory.sameOutside_writeBytes s.regs.mem Buf.digest.base
      (hmacSha1 s.snapshot.keyBytes (be64 s.snapshot.counter))
    rw [length_hmacSha1] at hframe
    rw [exec_hmac, runHmac_ok ((Regs.keylenOk_iff _).2 hle), State.complete_ok_unmatched _ _ rfl]
    exact ⟨_, rfl, rfl, Memory.readBytes_writeBytes_hmacSha1 _ _ _ hwf, hframe⟩
  case error =>
    rw [exec_hmac, runHmac_error (Regs.keylenOk_eq_false hlong), keylenError_eq, State.complete_error_eq]

end Sys2Proof.Machine
end

section
/-! PROOF. Dynamic truncation in numbers (42_truncation_hotp R160 to R165) and the completions of TRUNC (R166) and HOTP
(R167). -/

namespace Sys2Proof.Machine

/-! ## The results of dynamic truncation, as numbers -/

theorem toNat_be32 (b0 b1 b2 b3 : Byte) :
    (be32 b0 b1 b2 b3).toNat = b0.toNat * 2 ^ 24 + b1.toNat * 2 ^ 16 + b2.toNat * 2 ^ 8 + b3.toNat :=
  toNat_laneWord b3 b2 b1 b0

theorem toNat_truncOffset (d : List Byte) : (truncOffset d).toNat = (d.getD 19 0).toNat % 16 := by
  rw [truncOffset, BitVec.extractLsb'_toNat, Nat.shiftRight_zero]

theorem toNat_truncWord (d : List Byte) :
    (truncWord d).toNat =
      (d.getD (truncOffset d).toNat 0).toNat * 2 ^ 24 + (d.getD ((truncOffset d).toNat + 1) 0).toNat * 2 ^ 16 +
        (d.getD ((truncOffset d).toNat + 2) 0).toNat * 2 ^ 8 + (d.getD ((truncOffset d).toNat + 3) 0).toNat :=
  toNat_be32 _ _ _ _

theorem toNat_binCode (d : List Byte) : (binCode d).toNat = (truncWord d).toNat % 2 ^ 31 := by
  rw [binCode, BitVec.extractLsb'_toNat, Nat.shiftRight_zero]

/-- A code is at most its binCode, so it fits in CODE (R163). -/
theorem toNat_dynTrunc_code (d : List Byte) (n : Nat) : (dynTrunc d n).code.toNat = codeValue d n :=
  (BitVec.toNat_ofNat _ _).trans (Nat.mod_eq_of_lt ((Nat.mod_le _ _).trans_lt (binCode d).isLt))

/-! ## The text of a code -/

/-- Each rendered byte is an ASCII digit, so it fits in a byte (R164). -/
theorem toNat_getElem_render (code n : Nat) {i : Nat} (h : i < (render code n).length) :
    (render code n)[i].toNat = 0x30 + code / 10 ^ (n - 1 - i) % 10 := by
  have hdigit : code / 10 ^ (n - 1 - i) % 10 < 10 := Nat.mod_lt _ (by decide)
  simp only [render, List.getElem_map, List.getElem_range]
  exact (BitVec.toNat_ofNat _ _).trans (Nat.mod_eq_of_lt (by omega))

section
variable {m : Memory} {d : List Byte} {n : Nat} (hwf : m.wf = true) (hn : n ≤ 12)
include hwf hn

/-- The digits stand first in CODESTR (R165). -/
theorem Memory.toNat_read_writeBytes_dynTrunc (a : Nat) {i : Nat} (hi : i < n) :
    ((m.writeBytes a (dynTrunc d n).str).read (a + i)).toNat = 0x30 + codeValue d n / 10 ^ (n - 1 - i) % 10 := by
  have hrender : i < (render (codeValue d n) n).length := by rwa [length_render]
  rw [Memory.read_writeBytes_inside a _ i (by rw [length_dynTrunc_str d hn]; omega) hwf,
    ← toNat_getElem_render (codeValue d n) n hrender]
  exact congrArg BitVec.toNat (List.getElem_append_left hrender)

/-- Zeros follow the digits to the end of CODESTR (R165). -/
theorem Memory.read_writeBytes_dynTrunc_zero (a : Nat) {i : Nat} (hi : n ≤ i) (hi12 : i < 12) :
    (m.writeBytes a (dynTrunc d n).str).read (a + i) = 0 := by
  have hrender : (render (codeValue d n) n).length ≤ i := by rwa [length_render]
  rw [Memory.read_writeBytes_inside a _ i (by rwa [length_dynTrunc_str d hn]) hwf]
  exact (List.getElem_append_right hrender).trans (List.getElem_replicate _)

theorem Memory.readBytes_writeBytes_dynTrunc (a : Nat) :
    (m.writeBytes a (dynTrunc d n).str).readBytes a 12 = (dynTrunc d n).str :=
  length_dynTrunc_str d hn ▸ Memory.readBytes_writeBytes a (dynTrunc d n).str hwf

end

/-! ## The operands and the digit count error -/

theorem Memory.getD_readBytes (m : Memory) (a : Nat) {n i : Nat} (h : i < n) :
    (m.readBytes a n).getD i 0 = m.read (a + i) := by
  have hlen : i < (m.readBytes a n).length := by rwa [Memory.length_readBytes]
  rw [← List.getElem_eq_getD (h := hlen), Memory.getElem_readBytes]

/-- DIGEST is at offset 0x080 (10_state R47). -/
theorem Regs.getD_digestBytes (r : Regs) {i : Nat} (h : i < 20) : r.digestBytes.getD i 0 = r.mem.read (0x080 + i) :=
  Memory.getD_readBytes r.mem _ h

theorem Regs.toNat_truncOffset_digestBytes (r : Regs) :
    (truncOffset r.digestBytes).toNat = (r.mem.read (0x080 + 19)).toNat % 16 := by
  rw [toNat_truncOffset, Regs.getD_digestBytes r (by decide)]

/-- The offset is below 16, so the four bytes from it on end at byte 18 of DIGEST at the latest (R161). -/
theorem Regs.toNat_truncWord_digestBytes (r : Regs) {o : Nat} (ho : (truncOffset r.digestBytes).toNat = o) :
    (truncWord r.digestBytes).toNat =
      (r.mem.read (0x080 + o)).toNat * 2 ^ 24 + (r.mem.read (0x080 + (o + 1))).toNat * 2 ^ 16 +
        (r.mem.read (0x080 + (o + 2))).toNat * 2 ^ 8 + (r.mem.read (0x080 + (o + 3))).toNat := by
  have hlow : o < 16 := ho ▸ (truncOffset r.digestBytes).isLt
  rw [toNat_truncWord, ho]
  simp (disch := omega) only [Regs.getD_digestBytes]

/-- ERRINFO of a digit count error is DIGITS (60_exceptions R221 code 4). -/
theorem digitsError_eq (r : Regs) : digitsError r = ⟨.invalidDigits, BitVec.ofNat 32 r.digits.toNat⟩ := by
  rw [digitsError, BitVec.ofNat_toNat]

theorem Regs.digitsOk_eq_false {r : Regs} (h : r.digits.toNat < 1 ∨ 10 < r.digits.toNat) : r.digitsOk = false :=
  Bool.eq_false_iff.2 fun hok => absurd ((Regs.digitsOk_iff r).1 hok) (by omega)

/-! ## Whole buffers -/

/-- A write of a whole buffer touches only the offsets the buffer holds. -/
theorem Memory.read_writeBytes_of_not_holds (m : Memory) {b : Buf} {bs : List Byte} {a : Nat}
    (hlen : bs.length = b.size) (h : ¬ b.holds a = true) : (m.writeBytes b.base bs).read a = m.read a := by
  rw [Buf.holds_iff] at h
  exact Memory.read_writeBytes_outside m b.base bs (by omega)

/-- DIGEST lies before CODESTR, so that a stored code leaves a stored digest as it is. -/
theorem Memory.readBytes_digest_writeBytes_codestr (m : Memory) (bs : List Byte) :
    (m.writeBytes Buf.codestr.base bs).readBytes Buf.digest.base 20 = m.readBytes Buf.digest.base 20 :=
  Memory.readBytes_writeBytes_outside m _ bs _ 20 (.inl (by decide))

/-! ## The statements -/

/-- Settles O17: a legal digit count commits the results of dynamic truncation of DIGEST, with its digits and zeros as
one write at CODESTR; any other is the digit count error. -/
theorem truncWritesCode : Obligations.TruncWritesCode := by
  intro s hwf
  refine ⟨fun hmin hmax => ?success, fun hillegal => ?error⟩
  case success =>
    have h12 : s.snapshot.digitCount ≤ 12 := hmax.trans (by decide)
    rw [exec_trunc, runTrunc_ok ((Regs.digitsOk_iff _).2 ⟨hmin, hmax⟩), State.complete_ok_unmatched _ _ rfl]
    refine ⟨_, rfl, rfl, ⟨?offset, ?word, toNat_binCode _, ?code, fun i hi => ?digit, fun i hi hi12 => ?zero⟩, ?frame⟩
    case offset => exact Regs.toNat_truncOffset_digestBytes _
    case word => exact Regs.toNat_truncWord_digestBytes _ (Regs.toNat_truncOffset_digestBytes _)
    case code => exact toNat_dynTrunc_code _ _
    case digit =>
      refine (Memory.toNat_read_writeBytes_dynTrunc hwf h12 Buf.codestr.base hi).trans ?_
      rw [← toNat_dynTrunc_code]
      rfl
    case zero => exact Memory.read_writeBytes_dynTrunc_zero hwf h12 Buf.codestr.base hi hi12
    case frame => exact length_dynTrunc_str _ h12 ▸ Memory.sameOutside_writeBytes _ _ _
  case error =>
    rw [exec_trunc, runTrunc_error (Regs.digitsOk_eq_false hillegal), digitsError_eq, State.complete_error_eq]

/-- Settles O18: with both checks passed, one write of the digest at DIGEST and then one of its code at CODESTR; the
digit count is checked before the key length. -/
theorem hotpWritesCode : Obligations.HotpWritesCode := by
  intro s hwf
  refine ⟨fun hmin hmax hkey => ?success, fun hillegal => ?digits, fun hmin hmax hlong => ?keylen⟩
  case success =>
    have h12 : s.snapshot.digitCount ≤ 12 := hmax.trans (by decide)
    have hdigest := Memory.wf_writeBytes Buf.digest.base
      (hmacSha1 s.snapshot.keyBytes (be64 s.snapshot.counter)) hwf
    rw [exec_hotp, runHotp_ok ((Regs.digitsOk_iff _).2 ⟨hmin, hmax⟩) ((Regs.keylenOk_iff _).2 hkey),
      State.complete_ok_unmatched _ _ rfl]
    refine ⟨_, rfl, rfl, ⟨?digest, rfl, rfl, rfl, toNat_dynTrunc_code _ _, ?codestr⟩, fun a hd hc => ?frame⟩
    case digest =>
      exact (Memory.readBytes_digest_writeBytes_codestr _ _).trans
        (Memory.readBytes_writeBytes_hmacSha1 _ _ _ hwf)
    case codestr => exact Memory.readBytes_writeBytes_dynTrunc hdigest h12 Buf.codestr.base
    case frame =>
      exact (Memory.read_writeBytes_of_not_holds _ (length_dynTrunc_str _ h12) hc).trans
        (Memory.read_writeBytes_of_not_holds _ (length_hmacSha1 _ _) hd)
  case digits =>
    rw [exec_hotp, runHotp_digits (Regs.digitsOk_eq_false hillegal), digitsError_eq, State.complete_error_eq]
  case keylen =>
    rw [exec_hotp, runHotp_keylen ((Regs.digitsOk_iff _).2 ⟨hmin, hmax⟩) (Regs.keylenOk_eq_false hlong),
      keylenError_eq, State.complete_error_eq]

end Sys2Proof.Machine
end

section
/-! PROOF. The divider by 30 (43_totp R180, R181), and the completions of TDIV (R183) and GETCODE (R187). -/

namespace Sys2Proof.Machine

/-! ## The divider and the resolved counter -/

/-- The quotient is at most the time, so it fits in 64 bits (R180). -/
theorem toNat_counterForTime (t : DWord) : (counterForTime t).toNat = t.toNat / 30 :=
  (BitVec.toNat_ofNat _ _).trans (Nat.mod_eq_of_lt ((Nat.div_le_self _ _).trans_lt t.isLt))

theorem resolve_eq_ok {tslice c : DWord} {wc : ClockSample} (hoverride : tslice ≠ 0 → c = tslice)
    (hclock : tslice = 0 → wc.valid = true ∧ c.toNat = wc.seconds.toNat / 30) : resolve tslice wc = .ok c := by
  by_cases h : tslice = 0
  case pos =>
    obtain ⟨hvalid, hquotient⟩ := hclock h
    have hc : c = counterForTime wc.seconds :=
      BitVec.eq_of_toNat_eq (hquotient.trans (toNat_counterForTime _).symm)
    rw [h, hc, resolve_clock hvalid]
  case neg => rw [hoverride h, resolve_override h]

/-! ## What the completion of a counter, or of a digest and its code, leaves -/

theorem pair_hiHalf_loHalf (v : DWord) : pair (hiHalf v) (loHalf v) = v :=
  (BitVec.extractLsb'_append_extractLsb'_eq_extractLsb' (by decide)).trans BitVec.extractLsb'_eq_self

theorem State.counter_complete (s : State) {c : Commit} {v : DWord} (h : c.counter = some v) :
    (s.complete (.ok c)).regs.counter = v := by
  have hhalves : (s.complete (.ok c)).regs.counter = (s.regs.commit c).counter := rfl
  rw [hhalves, Regs.counter, Regs.commit_counterHi, Regs.commit_counterLo, h]
  exact pair_hiHalf_loHalf v

section
variable {s : State} {c : Commit} {d : List Byte} {n : Nat} (hkey : c.key = none) (hdigest : c.digest = some d)
  (hcode : c.code = some (dynTrunc d n))
include hkey hdigest hcode

theorem State.complete_digest_code_mem :
    (s.complete (.ok c)).regs.mem =
      (s.regs.mem.writeBytes Buf.digest.base d).writeBytes Buf.codestr.base (dynTrunc d n).str := by
  rw [State.complete_ok_mem, hkey, hdigest, hcode]
  rfl

theorem State.digestBytes_complete (hwf : s.regs.mem.wf = true) (hd : d.length = 20) :
    (s.complete (.ok c)).regs.digestBytes = d := by
  rw [Regs.digestBytes, Regs.bytes, State.complete_digest_code_mem hkey hdigest hcode,
    Memory.readBytes_digest_writeBytes_codestr]
  exact hd ▸ Memory.readBytes_writeBytes _ d hwf

theorem State.codestr_complete (hwf : s.regs.mem.wf = true) (hn : n ≤ 12) :
    (s.complete (.ok c)).regs.bytes .codestr 12 = (dynTrunc d n).str := by
  rw [Regs.bytes, State.complete_digest_code_mem hkey hdigest hcode,
    Memory.readBytes_writeBytes_dynTrunc (Memory.wf_writeBytes _ _ hwf) hn]

/-- Of the memory, only DIGEST and CODESTR change. -/
theorem State.read_complete_of_not_holds (hd : d.length = 20) (hn : n ≤ 12) {a : Nat}
    (hadigest : ¬ Buf.holds .digest a = true) (hacode : ¬ Buf.holds .codestr a = true) :
    (s.complete (.ok c)).regs.mem.read a = s.regs.mem.read a := by
  rw [State.complete_digest_code_mem hkey hdigest hcode,
    Memory.read_writeBytes_of_not_holds _ (length_dynTrunc_str d hn) hacode,
    Memory.read_writeBytes_of_not_holds _ hd hadigest]

end

/-! ## The statements -/

/-- Settles O39: the divider is the division by 30 of natural numbers, which `omega` knows. -/
theorem dividerSlices : Obligations.DividerSlices := by
  refine ⟨fun t c => ?slice, fun t t' h => ?monotone⟩
  case slice =>
    rw [← BitVec.toNat_inj, toNat_counterForTime]
    omega
  case monotone =>
    rw [toNat_counterForTime, toNat_counterForTime]
    exact Nat.div_le_div_right h

/-- Settles O15: the run of TDIV is one commit of a counter, the quotient of the snapshot's time. -/
theorem tdivWritesQuotient : Obligations.TdivWritesQuotient := by
  intro s
  refine ⟨_, exec_tdiv s, rfl, ?_⟩
  calc ((s.complete (runTdiv s.snapshot)).regs.counter).toNat
      = (counterForTime s.snapshot.time).toNat := congrArg BitVec.toNat (State.counter_complete s rfl)
    _ = s.snapshot.time.toNat / 30 := toNat_counterForTime _

/-- Settles O21: with its checks passed, GETCODE commits the resolved counter, the digest at it and the code of that
digest, and no key; the digit count is checked before the secret, and the secret before the clock. -/
theorem getcodeWritesCode : Obligations.GetcodeWritesCode := by
  intro s hwf
  refine ⟨fun key c hmin hmax hkey hoverride hclock => ?success, fun hillegal => ?digits,
    fun hmin hmax => ⟨fun e he => ?secret, fun key hkey hzero hinvalid => ?clock⟩⟩
  case success =>
    have h12 : s.snapshot.digitCount ≤ 12 := hmax.trans (by decide)
    have hd := length_hmacSha1 key (be64 c)
    rw [exec_getcode,
      runGetcode_ok ((Regs.digitsOk_iff _).2 ⟨hmin, hmax⟩) hkey (resolve_eq_ok hoverride hclock)]
    exact ⟨_, rfl, rfl,
      ⟨State.counter_complete _ rfl, State.digestBytes_complete rfl rfl rfl hwf hd, rfl, rfl, rfl,
        toNat_dynTrunc_code _ _, State.codestr_complete rfl rfl rfl hwf h12⟩,
      fun a hadigest hacode => State.read_complete_of_not_holds rfl rfl rfl hd h12 hadigest hacode⟩
  case digits =>
    rw [exec_getcode, runGetcode_digits (Regs.digitsOk_eq_false hillegal), digitsError_eq, State.complete_error_eq]
  case secret =>
    rw [exec_getcode, runGetcode_secret ((Regs.digitsOk_iff _).2 ⟨hmin, hmax⟩) he, State.complete_error_eq]
  case clock =>
    have hresolve : resolve s.snapshot.tslice s.sample = .error ⟨.clockUnavailable, 0⟩ := by
      rw [hzero, resolve_unavailable hinvalid]
    rw [exec_getcode, runGetcode_clock ((Regs.digitsOk_iff _).2 ⟨hmin, hmax⟩) hkey hresolve,
      State.complete_error_eq]

end Sys2Proof.Machine
end

section
/-! PROOF. The window scan (44_verify R197 to R200) and the completion of VERIFY (R196, R201). -/

namespace Sys2Proof.Machine

/-! ## The scan finds the least hit of the window -/

/-- Counter `x` is in the window of half-width `d` around `c`, saturated at both ends (R197), and the candidate is its
code (R199). -/
def WindowHit (key : List Byte) (n : Nat) (cand : List Byte) (c d : DWord) (x : Nat) : Prop :=
  c.toNat - d.toNat ≤ x ∧ x ≤ min (c.toNat + d.toNat) (2 ^ 64 - 1) ∧ sliceCode key x n = cand

/-- The window holds its centre, so it is never empty. -/
theorem windowLo_le_windowHi (c d : DWord) : windowLo c d ≤ windowHi c d :=
  (Nat.sub_le _ _).trans (le_min (Nat.le_add_right _ _) (Nat.le_pred_of_lt c.isLt))

/-- The number of values the scan looks at ends it at the window's upper end. -/
theorem windowLo_add_count (c d : DWord) : windowLo c d + (windowHi c d - windowLo c d + 1) = windowHi c d + 1 := by
  have h := windowLo_le_windowHi c d
  omega

section
variable {key cand : List Byte} {n x : Nat} {c d : DWord}

theorem isLeast_windowHit_of_scanWindow_eq_some (h : scanWindow key n cand c d = some x) :
    IsLeast {y | WindowHit key n cand c d y} x := by
  obtain ⟨hlo, hhi, hcode, hfirst⟩ := firstMatch_some h
  rw [windowLo_add_count] at hhi
  refine ⟨⟨hlo, Nat.le_of_lt_succ hhi, beq_iff_eq.1 hcode⟩, ?least⟩
  rintro y ⟨hylo, -, hycode⟩
  by_contra hyx
  exact beq_eq_false_iff_ne.1 (hfirst y hylo (not_le.1 hyx)) hycode

theorem not_windowHit_of_scanWindow_eq_none (h : scanWindow key n cand c d = none) :
    ¬ WindowHit key n cand c d x := by
  rintro ⟨hlo, hhi, hcode⟩
  have hin : x < windowLo c d + (windowHi c d - windowLo c d + 1) :=
    (Nat.lt_succ_of_le hhi).trans_eq (windowLo_add_count c d).symm
  exact beq_eq_false_iff_ne.1 (firstMatch_none h x hlo hin) hcode

/-- MATCH of a scan: some counter of the window is a hit (R201). -/
theorem isSome_scanWindow_iff : (scanWindow key n cand c d).isSome = true ↔ ∃ y, WindowHit key n cand c d y := by
  cases hscan : scanWindow key n cand c d with
  | none => exact iff_of_false (by simp) fun ⟨_, hy⟩ => not_windowHit_of_scanWindow_eq_none hscan hy
  | some y => exact iff_of_true rfl ⟨y, (isLeast_windowHit_of_scanWindow_eq_some hscan).1⟩

/-- MATCHCTR of a scan that found a hit: the window ends at 2^64 - 1, so the least hit fits in the register pair. -/
theorem isLeast_matchctr_of_isSome_scanWindow (h : (scanWindow key n cand c d).isSome = true) :
    IsLeast {y | WindowHit key n cand c d y} (BitVec.ofNat 64 ((scanWindow key n cand c d).getD 0)).toNat := by
  obtain ⟨y, hscan⟩ := Option.isSome_iff_exists.1 h
  have hleast := isLeast_windowHit_of_scanWindow_eq_some hscan
  obtain ⟨-, hmax, -⟩ := hleast.1
  rwa [hscan, Option.getD_some, BitVec.toNat_ofNat, Nat.mod_eq_of_lt (by omega)]

/-- MATCHCTR of a scan that found no hit. -/
theorem matchctr_of_isSome_scanWindow_eq_false (h : (scanWindow key n cand c d).isSome = false) :
    BitVec.ofNat 64 ((scanWindow key n cand c d).getD 0) = 0 := by
  rw [Option.not_isSome_iff_eq_none.1 (Bool.eq_false_iff.1 h)]
  rfl

end

theorem State.matchctr_complete (s : State) {c : Commit} {v : DWord} (h : c.matchctr = some v) :
    (s.complete (.ok c)).regs.matchctr = v := by
  have hhalves : (s.complete (.ok c)).regs.matchctr = (s.regs.commit c).matchctr := rfl
  rw [hhalves, Regs.matchctr, Regs.commit_matchctrHi, Regs.commit_matchctrLo, h]
  exact pair_hiHalf_loHalf v

/-! ## The statements -/

/-- Settles O23: the length gate comes before the clock and the scan, and commits a MATCHCTR of 0 and nothing else. -/
theorem verifyLengthGate : Obligations.VerifyLengthGate := by
  intro s key hmin hmax hkey hlen
  rw [exec_verify, runVerify_gate ((Regs.digitsOk_iff _).2 ⟨hmin, hmax⟩) hkey hlen,
    State.complete_ok_unmatched _ _ rfl]
  rfl

/-- Settles O22: with the gate passed, VERIFY commits the resolved counter and the result of the scan, which finds the
least hit of the window where there is one. -/
theorem verifyFindsLeastMatch : Obligations.VerifyFindsLeastMatch := by
  intro s key c hmin hmax hkey hlen hresolve
  rw [exec_verify, runVerify_scan ((Regs.digitsOk_iff _).2 ⟨hmin, hmax⟩) hkey hlen hresolve]
  refine ⟨_, rfl, rfl, State.counter_complete s rfl, isSome_scanWindow_iff, fun hmatch => ?least, fun hmiss => ?zero⟩
  case least =>
    rw [State.matchctr_complete s rfl]
    exact isLeast_matchctr_of_isSome_scanWindow hmatch
  case zero => exact (State.matchctr_complete s rfl).trans (matchctr_of_isSome_scanWindow_eq_false hmiss)

end Sys2Proof.Machine
end

section
/-! PROOF. The commands NOP (45_control R210) and KEYCLR (R211). -/

namespace Sys2Proof.Machine

/-! ## Successful completions, and a CMD write while a command is pending -/

@[simp] theorem Regs.commit_empty (r : Regs) : r.commit {} = r := rfl

@[simp] theorem State.succeededWith_mem (s : State) (r : Regs) : (s.succeededWith r).regs.mem = r.mem := rfl

theorem State.busWrite_cmd_busy {s : State} (w : Word) (h : s.busy = true) :
    s.busWrite 0x00C w = (s.setRegs s.regs.flagsAtIgnoredWrite).respond (.write false) := by
  rw [State.busWrite_mapped w (n := .cmd) (by decide), State.writeReg_busy w h (by decide) (by decide)]

/-! ## The cleared key -/

/-- A key of length 0 has no bytes, whatever KEY holds, and its length is legal. -/
theorem Regs.empty_key_of_keylen_eq_zero {r : Regs} (h : r.keylen = 0) : r.keyBytes = [] ∧ r.keylenOk = true := by
  rw [Regs.keylenOk_iff, Regs.keyBytes, h]
  exact ⟨rfl, Nat.zero_le _⟩

/-- KEYCLR commits a KEYLEN of 0 and one write of 80 zeros at KEY. -/
theorem exec_keyclr_eq_succeededWith (s : State) :
    exec .keyclr s = .next (s.succeededWith
      { s.regs with keylen := 0, mem := s.regs.mem.writeBytes Buf.key.base (List.replicate 80 0) }) := by
  rw [exec_keyclr, runKeyclr, State.complete_ok_unmatched _ _ rfl]
  rfl

theorem Memory.read_writeBytes_replicate {m : Memory} (a : Nat) (b : Byte) {n j : Nat} (hj : j < n)
    (h : m.wf = true) : (m.writeBytes a (List.replicate n b)).read (a + j) = b := by
  rw [Memory.read_writeBytes_inside a _ j (by rwa [List.length_replicate]) h, List.getElem_replicate]

/-! ## The statements -/

/-- Settles O14: the completion of KEYCLR writes the 80 zero bytes at KEY and no other byte, and with KEYLEN 0 the key
is empty. -/
theorem keyclrClearsKey : Obligations.KeyclrClearsKey := by
  intro s hwf
  have hframe := Memory.sameOutside_writeBytes s.regs.mem Buf.key.base (List.replicate 80 0)
  rw [List.length_replicate] at hframe
  refine ⟨_, exec_keyclr_eq_succeededWith s, ?_⟩
  simp only [State.succeededWith_mem, true_and]
  exact ⟨fun j hj => Memory.read_writeBytes_replicate _ 0 hj hwf, hframe, Regs.empty_key_of_keylen_eq_zero rfl⟩

/-- Settles O13: NOP completes with no commit; its CMD write issues it from the idle engine with the port's clock
level, and sets only WERR while a command is pending. -/
theorem nopOnlyCompletes : Obligations.NopOnlyCompletes := by
  have hdecode : decodeWord 0x00000000 = .nop := rfl
  refine ⟨fun s => ?completion, hdecode, fun s hidle => ?issue, fun s hbusy => ?ignored⟩
  case completion =>
    rw [exec_nop, runNop, State.complete_ok_unmatched _ _ rfl, Regs.commit_empty]
  case issue =>
    rw [State.busWrite_cmd_idle _ hidle, State.busy_respond, State.respond_phase, State.issue_phase, hdecode]
    exact ⟨State.busy_issue s _, rfl⟩
  case ignored => rw [State.busWrite_cmd_busy _ hbusy, State.respond_phase, State.setRegs_phase]

end Sys2Proof.Machine
end

section
/-! PROOF. The CMD write, with the engine idle and with a command pending (60_exceptions R235). -/

namespace Sys2Proof.Machine

/-- Settles O7: with BUSY = 0 the write is the issue, which clears DONE and makes the decoding, the registers and the
clock level as they stand before it the pending command; with BUSY = 1 it sets only WERR. -/
theorem issueTakesSnapshot : Obligations.IssueTakesSnapshot := by
  refine fun s w => ⟨fun hidle => ?issue, fun hbusy => ?ignored⟩
  case issue =>
    rw [State.busWrite_cmd_idle w hidle, State.busy_respond]
    exact ⟨rfl, State.busy_issue s w⟩
  case ignored =>
    rw [State.busWrite_cmd_busy w hbusy]
    rfl

end Sys2Proof.Machine
end

section
/-! PROOF. Decoding and encoding are inverse to each other on the well-formed instructions (30_encoding R100 to R103,
R106). -/

namespace Sys2Proof

theorem rsvField_encode (i : Instr) : rsvField (encode i) = i.rsvBits := (Laws.EncodeFields.of_append _ _).1

theorem opField_encode (i : Instr) : opField (encode i) = i.opNumber := (Laws.EncodeFields.of_append _ _).2

/-- Under RSV = 0 the OP field alone decides (R101). -/
theorem decodeWord_encode_of_rsv_zero {i : Instr} (h : i.rsvBits = 0) :
    decodeWord (encode i) = decodeOp i.opNumber := by
  rw [decodeWord_of_rsv_zero ((rsvField_encode i).trans h), opField_encode]

theorem decodeOp_reservedAB (low : BitVec 1) : decodeOp (Instr.reservedAB low).opNumber = .reservedAB low := by
  revert low
  decide

theorem decodeOp_reservedCF (low : BitVec 2) : decodeOp (Instr.reservedCF low).opNumber = .reservedCF low := by
  revert low
  decide

theorem wf_illegalRsv_iff (rsv : BitVec 28) (op : BitVec 4) : (Instr.illegalRsv rsv op).wf = true ↔ rsv ≠ 0 := by
  rw [Instr.wf, bne_iff_ne]

theorem wf_decodeOp (op : BitVec 4) : (decodeOp op).wf = true := by
  revert op
  decide

theorem wf_decodeWord (w : Word) : (decodeWord w).wf = true := by
  by_cases h : rsvField w = 0
  · rw [decodeWord_of_rsv_zero h, wf_decodeOp]
  · rw [decodeWord_of_rsv_ne_zero h, wf_illegalRsv_iff]
    exact h

/-! ## The statements -/

/-- Settles O2: the two fields of the encoding are the RSV bits and the OP number of the instruction, and decoding
looks at nothing else. -/
theorem decodeOfEncode : Obligations.DecodeOfEncode := by
  intro i hwf
  cases i with
  | nop | b32dec | hmac | trunc | hotp | tdiv | getcode | verify | keyclr | reserved9 =>
    exact decodeWord_encode_of_rsv_zero rfl
  | reservedAB low => exact (decodeWord_encode_of_rsv_zero rfl).trans (decodeOp_reservedAB low)
  | reservedCF low => exact (decodeWord_encode_of_rsv_zero rfl).trans (decodeOp_reservedCF low)
  | illegalRsv rsv op =>
    rw [wf_illegalRsv_iff] at hwf
    have hrsv : rsvField (encode (.illegalRsv rsv op)) = rsv := rsvField_encode _
    rw [decodeWord_of_rsv_ne_zero (hrsv.symm ▸ hwf), hrsv, opField_encode, Instr.opNumber]

/-- Settles O3: the decoding of a word keeps its two fields, and names an illegal RSV only where it is not 0. -/
theorem encodeOfDecode : Obligations.EncodeOfDecode := fun w => ⟨wf_decodeWord w, encode_decodeWord w⟩

/-- Settles O1: each word is a literal, decoded by evaluation. -/
theorem opcodeMapWordsDecode : Obligations.OpcodeMapWordsDecode := by
  unfold Obligations.OpcodeMapWordsDecode
  decide

end Sys2Proof
end

section
/-! PROOF. A completion as a function of the command, the snapshot and the clock sample (60_exceptions R223, R224,
R236), and what each command can commit and reads (10_state R62). -/

namespace Sys2Proof.Machine

/-! ## The run of a command -/

/-- The outcome of a command, from its snapshot and its clock sample alone (60_exceptions R236). -/
def runOf (i : Instr) (r : Regs) (wc : ClockSample) : RunOutcome :=
  match i with
  | .nop => runNop
  | .b32dec => runB32dec r
  | .hmac => runHmac r
  | .trunc => runTrunc r
  | .hotp => runHotp r
  | .tdiv => runTdiv r
  | .getcode => runGetcode r wc
  | .verify => runVerify r wc
  | .keyclr => runKeyclr
  | .reserved9 | .reservedAB _ | .reservedCF _ | .illegalRsv _ _ => runIllegal (encode i)

theorem exec_eq_complete_runOf (i : Instr) (s : State) :
    exec i s = .next (s.complete (runOf i s.snapshot s.sample)) := by
  cases i <;> rfl

theorem exec_of_pending {s : State} {op : Instr} {snap : Regs} {wc : ClockSample}
    (h : s.phase = .pending op snap wc) : exec op s = .next (s.complete (runOf op snap wc)) := by
  rw [exec_eq_complete_runOf, State.snapshot_of_pending h, State.sample_of_pending h]

/-! ## What a command can commit, and which errors it can raise -/

/-- The commits each command can end with (10_state R62, column "writes on success"). -/
inductive Commits : Instr → Commit → Prop
  | nop : Commits .nop {}
  | b32dec (n : BitVec 7) (image : List Byte) (h : image.length = 80) :
      Commits .b32dec { keylen := some n, key := some image }
  | hmac (d : List Byte) (h : d.length = 20) : Commits .hmac { digest := some d }
  | trunc (d : List Byte) (n : Nat) (hn : n ≤ 12) : Commits .trunc { code := some (dynTrunc d n) }
  | hotp (d : List Byte) (n : Nat) (h : d.length = 20) (hn : n ≤ 12) :
      Commits .hotp { digest := some d, code := some (dynTrunc d n) }
  | tdiv (x : DWord) : Commits .tdiv { counter := some x }
  | getcode (x : DWord) (d : List Byte) (n : Nat) (h : d.length = 20) (hn : n ≤ 12) :
      Commits .getcode { counter := some x, digest := some d, code := some (dynTrunc d n) }
  | verifyGate : Commits .verify { matchctr := some 0, matched := false }
  | verifyScan (x y : DWord) (m : Bool) : Commits .verify { counter := some x, matchctr := some y, matched := m }
  | keyclr (n : BitVec 7) (image : List Byte) (h : image.length = 80) :
      Commits .keyclr { keylen := some n, key := some image }

/-- The errors a command can raise: a code of 1 to 6, and a detail below 2^16 but for a word with no command
(60_exceptions R220, R221). -/
def CmdError.IsCommandError (e : CmdError) : Prop :=
  e.code ≠ .ok ∧ (e.code ≠ .illegalCommand → e.info.toNat < 2 ^ 16)

theorem digitCount_le_of_digitsOk {r : Regs} (h : r.digitsOk = true) : r.digitCount ≤ 12 :=
  ((Regs.digitsOk_iff r).1 h).2.trans (by decide)

theorem isCommandError_digitsError (r : Regs) : (digitsError r).IsCommandError := by
  have := r.digits.isLt
  refine ⟨by simp [digitsError], fun _ => ?_⟩
  rw [digitsError, BitVec.toNat_setWidth]
  omega

theorem isCommandError_keylenError (r : Regs) : (keylenError r).IsCommandError := by
  have := r.keylen.isLt
  refine ⟨by simp [keylenError], fun _ => ?_⟩
  rw [keylenError, BitVec.toNat_setWidth]
  omega

theorem isCommandError_illegalCommand (w : Word) : CmdError.IsCommandError ⟨.illegalCommand, w⟩ :=
  ⟨by simp, fun h => absurd rfl h⟩

/-- A decoder error names SECLEN, or a sub-cause up to 5 above a position up to 128. -/
theorem isCommandError_of_b32decode {r : Regs} {e : CmdError} (h : b32decode r = .error e) : e.IsCommandError := by
  by_cases hlegal : 16 ≤ r.seclen.toNat ∧ r.seclen.toNat ≤ 128
  case pos =>
    rw [b32decode_of_legal hlegal.1 hlegal.2] at h
    obtain ⟨sub, pos, rfl, -, hsub, hpos⟩ := decodeText_error h
    rw [length_secretText] at hpos
    rw [encodingError_eq_add sub (hpos.trans hlegal.2)]
    refine ⟨by simp, fun _ => ?_⟩
    rw [BitVec.toNat_ofNat]
    omega
  case neg =>
    rw [b32decode_of_illegal (by omega)] at h
    cases h
    have := r.seclen.isLt
    refine ⟨by simp, fun _ => ?_⟩
    rw [BitVec.toNat_setWidth]
    omega

theorem isCommandError_of_resolve {x : DWord} {wc : ClockSample} {e : CmdError} (h : resolve x wc = .error e) :
    e.IsCommandError := by
  unfold resolve at h
  split at h
  · cases h
  · split at h
    · cases h
    · cases h
      exact ⟨by simp, fun _ => by simp⟩

/-- What an outcome of the command `i` can be. -/
def OutcomeAllowed (i : Instr) : RunOutcome → Prop
  | .error e => e.IsCommandError
  | .ok c => Commits i c

theorem outcomeAllowed_runB32dec (r : Regs) : OutcomeAllowed .b32dec (runB32dec r) := by
  cases h : b32decode r with
  | error e =>
    rw [runB32dec_error h]
    exact isCommandError_of_b32decode h
  | ok key =>
    rw [runB32dec_ok h]
    exact .b32dec _ _ (length_keyImage (length_le_of_b32decode_ok h))

theorem outcomeAllowed_runHmac (r : Regs) : OutcomeAllowed .hmac (runHmac r) := by
  cases h : r.keylenOk with
  | false =>
    rw [runHmac_error h]
    exact isCommandError_keylenError r
  | true =>
    rw [runHmac_ok h]
    exact .hmac _ (length_hmacSha1 _ _)

theorem outcomeAllowed_runTrunc (r : Regs) : OutcomeAllowed .trunc (runTrunc r) := by
  cases h : r.digitsOk with
  | false =>
    rw [runTrunc_error h]
    exact isCommandError_digitsError r
  | true =>
    rw [runTrunc_ok h]
    exact .trunc _ _ (digitCount_le_of_digitsOk h)

theorem outcomeAllowed_runHotp (r : Regs) : OutcomeAllowed .hotp (runHotp r) := by
  cases h : r.digitsOk with
  | false =>
    rw [runHotp_digits h]
    exact isCommandError_digitsError r
  | true =>
    cases hk : r.keylenOk with
    | false =>
      rw [runHotp_keylen h hk]
      exact isCommandError_keylenError r
    | true =>
      rw [runHotp_ok h hk]
      exact .hotp _ _ (length_hmacSha1 _ _) (digitCount_le_of_digitsOk h)

theorem outcomeAllowed_runGetcode (r : Regs) (wc : ClockSample) : OutcomeAllowed .getcode (runGetcode r wc) := by
  cases h : r.digitsOk with
  | false =>
    rw [runGetcode_digits h]
    exact isCommandError_digitsError r
  | true =>
    cases hk : b32decode r with
    | error e =>
      rw [runGetcode_secret h hk]
      exact isCommandError_of_b32decode hk
    | ok key =>
      cases hc : resolve r.tslice wc with
      | error e =>
        rw [runGetcode_clock h hk hc]
        exact isCommandError_of_resolve hc
      | ok c =>
        rw [runGetcode_ok h hk hc]
        exact .getcode _ _ _ (length_hmacSha1 _ _) (digitCount_le_of_digitsOk h)

theorem outcomeAllowed_runVerify (r : Regs) (wc : ClockSample) : OutcomeAllowed .verify (runVerify r wc) := by
  cases h : r.digitsOk with
  | false =>
    rw [runVerify_digits h]
    exact isCommandError_digitsError r
  | true =>
    cases hk : b32decode r with
    | error e =>
      rw [runVerify_secret h hk]
      exact isCommandError_of_b32decode hk
    | ok key =>
      by_cases hg : r.candlen.toNat = r.digitCount
      case neg =>
        rw [runVerify_gate h hk hg]
        exact .verifyGate
      case pos =>
        cases hc : resolve r.tslice wc with
        | error e =>
          rw [runVerify_clock h hk hg hc]
          exact isCommandError_of_resolve hc
        | ok c =>
          rw [runVerify_scan h hk hg hc]
          exact .verifyScan _ _ _

/-- The inversion of a run: an error, or commits of the command's own column of writes. -/
theorem outcomeAllowed_runOf (i : Instr) (r : Regs) (wc : ClockSample) : OutcomeAllowed i (runOf i r wc) := by
  cases i with
  | nop => exact .nop
  | b32dec => exact outcomeAllowed_runB32dec r
  | hmac => exact outcomeAllowed_runHmac r
  | trunc => exact outcomeAllowed_runTrunc r
  | hotp => exact outcomeAllowed_runHotp r
  | tdiv => exact .tdiv _
  | getcode => exact outcomeAllowed_runGetcode r wc
  | verify => exact outcomeAllowed_runVerify r wc
  | keyclr => exact .keyclr _ _ (List.length_replicate ..)
  | reserved9 | reservedAB low | reservedCF low | illegalRsv rsv op => exact isCommandError_illegalCommand _

theorem commits_of_runOf {i : Instr} {r : Regs} {wc : ClockSample} {c : Commit} (h : runOf i r wc = .ok c) :
    Commits i c := by
  have hallowed := outcomeAllowed_runOf i r wc
  rwa [h] at hallowed

theorem isCommandError_of_runOf {i : Instr} {r : Regs} {wc : ClockSample} {e : CmdError}
    (h : runOf i r wc = .error e) : e.IsCommandError := by
  have hallowed := outcomeAllowed_runOf i r wc
  rwa [h] at hallowed

/-! ## The frame of a commit -/

section
variable {i : Instr} {c : Commit} (h : Commits i c)
include h

theorem Commits.eq_verify_of_matched (hm : c.matched = true) : i = .verify := by
  cases h with
  | verifyScan => rfl
  | nop | b32dec | hmac | trunc | hotp | tdiv | getcode | verifyGate | keyclr => cases hm

theorem Commits.keylen_eq_none (hb : i ≠ .b32dec) (hk : i ≠ .keyclr) : c.keylen = none := by
  cases h with
  | b32dec => exact absurd rfl hb
  | keyclr => exact absurd rfl hk
  | nop | hmac | trunc | hotp | tdiv | getcode | verifyGate | verifyScan => rfl

theorem Commits.counter_eq_none (ht : i ≠ .tdiv) (hg : i ≠ .getcode) (hv : i ≠ .verify) : c.counter = none := by
  cases h with
  | tdiv => exact absurd rfl ht
  | getcode => exact absurd rfl hg
  | verifyScan => exact absurd rfl hv
  | nop | b32dec | hmac | trunc | hotp | verifyGate | keyclr => rfl

theorem Commits.matchctr_eq_none (hv : i ≠ .verify) : c.matchctr = none := by
  cases h with
  | verifyGate | verifyScan => exact absurd rfl hv
  | nop | b32dec | hmac | trunc | hotp | tdiv | getcode | keyclr => rfl

theorem Commits.code_eq_none (ht : i ≠ .trunc) (hh : i ≠ .hotp) (hg : i ≠ .getcode) : c.code = none := by
  cases h with
  | trunc => exact absurd rfl ht
  | hotp => exact absurd rfl hh
  | getcode => exact absurd rfl hg
  | nop | b32dec | hmac | tdiv | verifyGate | verifyScan | keyclr => rfl

theorem Commits.key_some {bs : List Byte} (hs : c.key = some bs) :
    bs.length = 80 ∧ (i = .b32dec ∨ i = .keyclr) := by
  cases h with
  | b32dec n image hlen => cases hs; exact ⟨hlen, .inl rfl⟩
  | keyclr n image hlen => cases hs; exact ⟨hlen, .inr rfl⟩
  | nop | hmac | trunc | hotp | tdiv | getcode | verifyGate | verifyScan => cases hs

theorem Commits.digest_some {bs : List Byte} (hs : c.digest = some bs) :
    bs.length = 20 ∧ (i = .hmac ∨ i = .hotp ∨ i = .getcode) := by
  cases h with
  | hmac d hd => cases hs; exact ⟨hd, .inl rfl⟩
  | hotp d n hd hn => cases hs; exact ⟨hd, .inr (.inl rfl)⟩
  | getcode x d n hd hn => cases hs; exact ⟨hd, .inr (.inr rfl)⟩
  | nop | b32dec | trunc | tdiv | verifyGate | verifyScan | keyclr => cases hs

/-- A committed code is the result of a dynamic truncation, with its text of 12 bytes. -/
theorem Commits.code_some {tr : TruncResult} (hs : c.code = some tr) :
    (∃ d n, tr = dynTrunc d n) ∧ tr.str.length = 12 ∧ (i = .trunc ∨ i = .hotp ∨ i = .getcode) := by
  cases h with
  | trunc d n hn => cases hs; exact ⟨⟨d, n, rfl⟩, length_dynTrunc_str d hn, .inl rfl⟩
  | hotp d n hd hn => cases hs; exact ⟨⟨d, n, rfl⟩, length_dynTrunc_str d hn, .inr (.inl rfl)⟩
  | getcode x d n hd hn => cases hs; exact ⟨⟨d, n, rfl⟩, length_dynTrunc_str d hn, .inr (.inr rfl)⟩
  | nop | b32dec | hmac | tdiv | verifyGate | verifyScan | keyclr => cases hs

theorem Commits.str_some {bs : List Byte} (hs : c.code.map TruncResult.str = some bs) :
    bs.length = 12 ∧ (i = .trunc ∨ i = .hotp ∨ i = .getcode) := by
  obtain ⟨tr, htr, rfl⟩ := Option.map_eq_some_iff.1 hs
  exact (h.code_some htr).2

end

/-- A write of a whole buffer, or none, changes no byte that the buffer does not hold. -/
theorem Memory.read_writeOption_cases (m : Memory) (b : Buf) (o : Option (List Byte)) (a : Nat)
    (hlen : ∀ bs, o = some bs → bs.length = b.size) :
    (m.writeOption b o).read a = m.read a ∨ (b.holds a = true ∧ ∃ bs, o = some bs) := by
  cases o with
  | none => exact .inl rfl
  | some bs =>
    by_cases hin : b.holds a = true
    · exact .inr ⟨hin, bs, rfl⟩
    · exact .inl (Memory.read_writeBytes_of_not_holds m (hlen bs rfl) hin)

/-- The bytes a commit changes lie in the buffers of the command's column of writes. -/
theorem Commits.mem_frame {i : Instr} {c : Commit} (h : Commits i c) (r : Regs) {a : Nat}
    (hne : (r.commit c).mem.read a ≠ r.mem.read a) :
    (Buf.holds .key a = true ∧ (i = .b32dec ∨ i = .keyclr)) ∨
    (Buf.holds .digest a = true ∧ (i = .hmac ∨ i = .hotp ∨ i = .getcode)) ∨
    (Buf.holds .codestr a = true ∧ (i = .trunc ∨ i = .hotp ∨ i = .getcode)) := by
  rcases Memory.read_writeOption_cases r.mem .key c.key a fun bs hbs => (h.key_some hbs).1 with
    hkey | ⟨hin, bs, hbs⟩
  case inr => exact .inl ⟨hin, (h.key_some hbs).2⟩
  rcases Memory.read_writeOption_cases (r.mem.writeOption .key c.key) .digest c.digest a
    fun bs hbs => (h.digest_some hbs).1 with hdigest | ⟨hin, bs, hbs⟩
  case inr => exact .inr (.inl ⟨hin, (h.digest_some hbs).2⟩)
  rcases Memory.read_writeOption_cases ((r.mem.writeOption .key c.key).writeOption .digest c.digest) .codestr
    (c.code.map TruncResult.str) a fun bs hbs => (h.str_some hbs).1 with hcode | ⟨hin, bs, hbs⟩
  case inr => exact .inr (.inr ⟨hin, (h.str_some hbs).2⟩)
  exact absurd (hcode.trans (hdigest.trans hkey)) hne

/-! ## What a command reads -/

section
variable {r r' : Regs} {wc wc' : ClockSample}

theorem b32decode_congr (hlen : r.seclen = r'.seclen)
    (htext : 16 ≤ r.seclen.toNat → r.seclen.toNat ≤ 128 → r.secretText = r'.secretText) :
    b32decode r = b32decode r' := by
  by_cases hlegal : 16 ≤ r.seclen.toNat ∧ r.seclen.toNat ≤ 128
  case pos =>
    obtain ⟨hmin, hmax⟩ := hlegal
    rw [b32decode_of_legal hmin hmax, b32decode_of_legal (hlen ▸ hmin) (hlen ▸ hmax), htext hmin hmax]
  case neg => rw [b32decode_of_illegal (by omega), b32decode_of_illegal (by rw [← hlen]; omega), hlen]

theorem resolve_congr {x : DWord} (h : x = 0 → wc = wc') : resolve x wc = resolve x wc' := by
  by_cases hx : x = 0
  case pos => rw [h hx]
  case neg => rw [resolve_override hx, resolve_override hx]

theorem Regs.digitsOk_congr (h : r.digits = r'.digits) : r.digitsOk = r'.digitsOk := by
  rw [Regs.digitsOk, Regs.digitsOk, Regs.digitCount, Regs.digitCount, h]

theorem Regs.digitCount_congr (h : r.digits = r'.digits) : r.digitCount = r'.digitCount := by
  rw [Regs.digitCount, Regs.digitCount, h]

theorem digitsError_congr (h : r.digits = r'.digits) : digitsError r = digitsError r' := by
  rw [digitsError, digitsError, h]

theorem runB32dec_congr (h : b32decode r = b32decode r') : runB32dec r = runB32dec r' := by
  rw [runB32dec, runB32dec, h]

theorem Regs.keylenOk_congr (h : r.keylen = r'.keylen) : r.keylenOk = r'.keylenOk := by
  rw [Regs.keylenOk, Regs.keylenOk, h]

theorem keylenError_congr (h : r.keylen = r'.keylen) : keylenError r = keylenError r' := by
  rw [keylenError, keylenError, h]

theorem runTdiv_congr (h : r.time = r'.time) : runTdiv r = runTdiv r' := by
  rw [runTdiv, runTdiv, h]

theorem runTrunc_congr (hdigits : r.digits = r'.digits) (hdigest : r.digestBytes = r'.digestBytes) :
    runTrunc r = runTrunc r' := by
  rw [runTrunc, runTrunc, Regs.digitsOk_congr hdigits, hdigest, Regs.digitCount_congr hdigits,
    digitsError_congr hdigits]

section
variable (hlen : r.keylen = r'.keylen) (hkey : r.keylen.toNat ≤ 80 → r.keyBytes = r'.keyBytes)
  (hcounter : r.counter = r'.counter)
include hlen hkey hcounter

theorem runHmac_congr : runHmac r = runHmac r' := by
  have hok' := Regs.keylenOk_congr hlen
  cases hok : r.keylenOk with
  | true => rw [runHmac_ok hok, runHmac_ok (hok'.symm.trans hok), hkey ((Regs.keylenOk_iff r).1 hok), hcounter]
  | false => rw [runHmac_error hok, runHmac_error (hok'.symm.trans hok), keylenError_congr hlen]

theorem runHotp_congr (hdigits : r.digits = r'.digits) : runHotp r = runHotp r' := by
  have hd' := Regs.digitsOk_congr hdigits
  have hok' := Regs.keylenOk_congr hlen
  cases hd : r.digitsOk with
  | false => rw [runHotp_digits hd, runHotp_digits (hd'.symm.trans hd), digitsError_congr hdigits]
  | true =>
    cases hok : r.keylenOk with
    | false =>
      rw [runHotp_keylen hd hok, runHotp_keylen (hd'.symm.trans hd) (hok'.symm.trans hok), keylenError_congr hlen]
    | true =>
      rw [runHotp_ok hd hok, runHotp_ok (hd'.symm.trans hd) (hok'.symm.trans hok),
        hkey ((Regs.keylenOk_iff r).1 hok), hcounter, Regs.digitCount_congr hdigits]

end

section
variable (hdigits : r.digits = r'.digits) (hsecret : b32decode r = b32decode r') (htslice : r.tslice = r'.tslice)
  (hclock : r.tslice = 0 → wc = wc')
include hdigits hsecret htslice hclock

theorem runGetcode_congr : runGetcode r wc = runGetcode r' wc' := by
  rw [runGetcode, runGetcode, Regs.digitsOk_congr hdigits, hsecret, resolve_congr hclock, htslice,
    Regs.digitCount_congr hdigits, digitsError_congr hdigits]

/-- The candidate and the window are read only when the length gate passes (44_verify R196). -/
theorem runVerify_congr (hcandlen : r.candlen = r'.candlen)
    (hgate : r.candlen.toNat = r.digitCount →
      r.candidate r.digitCount = r'.candidate r.digitCount ∧ r.disc = r'.disc) :
    runVerify r wc = runVerify r' wc' := by
  rw [runVerify, runVerify, Regs.digitsOk_congr hdigits, hsecret, resolve_congr hclock, htslice,
    ← hcandlen, ← Regs.digitCount_congr hdigits, digitsError_congr hdigits]
  by_cases hg : r.candlen.toNat = r.digitCount
  case pos =>
    obtain ⟨hcand, hdisc⟩ := hgate hg
    rw [hcand, hdisc]
  case neg => simp only [if_pos hg, ne_eq]

end

end

/-- The completion of a state made pending: of the phase it looks at the snapshot and the clock sample only. -/
theorem exec_setPhase (i op : Instr) (s : State) (r : Regs) (wc : ClockSample) :
    exec i { s with phase := .pending op r wc } = .next (s.complete (runOf i r wc)) :=
  exec_eq_complete_runOf i _

theorem exec_setPhase_congr {i : Instr} {r r' : Regs} {wc wc' : ClockSample} (s : State) (op op' : Instr)
    (h : runOf i r wc = runOf i r' wc') :
    exec i { s with phase := .pending op r wc } = exec i { s with phase := .pending op' r' wc' } := by
  rw [exec_setPhase, exec_setPhase, h]

/-! ## The statements -/

/-- Settles O8: the function is `runOf`; of the commands only VERIFY commits a match. -/
theorem completionIsFunctionOfSnapshot : Obligations.CompletionIsFunctionOfSnapshot := by
  refine ⟨runOf, fun s op snap wc hpending => ⟨fun e he => ?error, fun c hc => ⟨?matched, ?success⟩⟩⟩
  case error => rw [exec_of_pending hpending, he, State.complete_error_eq]
  case matched => exact (commits_of_runOf hc).eq_verify_of_matched
  case success => rw [exec_of_pending hpending, hc, State.complete_ok_eq]

/-- Settles O10: a completion that leaves an error code took the error, and an error changes only STATUS and ERRINFO. -/
theorem errorCommitsNothing : Obligations.ErrorCommitsNothing := by
  intro i s t ht herr
  rw [exec_eq_complete_runOf, Host.Outcome.next.injEq] at ht
  subst ht
  obtain ⟨e, he, -⟩ := Regs.complete_of_err herr
  rw [he]
  rfl

/-- Settles O11: an error commits nothing, and a success commits within the command's column of writes. -/
theorem commandsWriteOnlyTheirResults : Obligations.CommandsWriteOnlyTheirResults := by
  intro i s t ht
  rw [exec_eq_complete_runOf, Host.Outcome.next.injEq] at ht
  subst ht
  cases hrun : runOf i s.snapshot s.sample with
  | error e =>
    exact ⟨rfl, ⟨rfl, rfl, rfl, rfl, rfl, rfl, rfl, rfl, rfl⟩, fun _ _ => rfl, fun _ _ _ => rfl, fun _ => rfl,
      fun _ _ _ => ⟨rfl, rfl, rfl, rfl⟩, fun a hne => absurd rfl hne⟩
  | ok c =>
    have hc := commits_of_runOf hrun
    refine ⟨rfl, ⟨rfl, rfl, rfl, rfl, rfl, rfl, rfl, rfl, rfl⟩, fun hb hk => ?keylen, fun ht hg hv => ?counter,
      fun hv => ?matchctr, fun ht hh hg => ?code, fun a hne => hc.mem_frame s.regs hne⟩
    case keylen => simp [hc.keylen_eq_none hb hk]
    case counter => simp [Regs.counter, hc.counter_eq_none ht hg hv]
    case matchctr => simp [Regs.matchctr, hc.matchctr_eq_none hv]
    case code => simp [hc.code_eq_none ht hh hg]

/-- Settles O12: the run of each command is the same on two snapshots that agree on what it reads. -/
theorem commandsReadOnlyTheirOperands : Obligations.CommandsReadOnlyTheirOperands := by
  intro s op op' r r' wc wc' s₁ s₂
  refine ⟨fun hseclen htext => ?b32dec, fun hkeylen hkey hcounter => ⟨?hmac, fun hdigits => ?hotp⟩,
    fun hdigits hdigest => ?trunc, fun htime => ?tdiv,
    fun hdigits hseclen htext htslice hclock => ⟨?getcode, fun hcandlen hgate => ?verify⟩⟩
  case b32dec => exact exec_setPhase_congr s op op' (runB32dec_congr (b32decode_congr hseclen htext))
  case hmac => exact exec_setPhase_congr s op op' (runHmac_congr hkeylen hkey hcounter)
  case hotp => exact exec_setPhase_congr s op op' (runHotp_congr hkeylen hkey hcounter hdigits)
  case trunc => exact exec_setPhase_congr s op op' (runTrunc_congr hdigits hdigest)
  case tdiv => exact exec_setPhase_congr s op op' (runTdiv_congr htime)
  case getcode =>
    exact exec_setPhase_congr s op op' (runGetcode_congr hdigits (b32decode_congr hseclen htext) htslice hclock)
  case verify =>
    exact exec_setPhase_congr s op op'
      (runVerify_congr hdigits (b32decode_congr hseclen htext) htslice hclock hcandlen hgate)

/-- Settles O25: the digit count is checked first, then the key length or the secret, and the clock last, behind
VERIFY's length gate. -/
theorem errorPrecedence : Obligations.ErrorPrecedence := by
  intro s r n
  refine ⟨fun hillegal i hi => ?digits, fun hmin hmax hlong => ?keylen, fun hmin hmax e he i hi => ?secret,
    fun hmin hmax key hkey hzero hinvalid => ?clock⟩
  case digits =>
    have hrun : runOf i r s.sample = .error (digitsError r) := by
      have hbad := Regs.digitsOk_eq_false hillegal
      fin_cases hi
      · exact runTrunc_error hbad
      · exact runHotp_digits hbad
      · exact runGetcode_digits hbad
      · exact runVerify_digits hbad
    rw [exec_eq_complete_runOf, hrun, digitsError_eq, State.complete_error_eq]
  case keylen =>
    rw [exec_hotp, runHotp_keylen ((Regs.digitsOk_iff r).2 ⟨hmin, hmax⟩) (Regs.keylenOk_eq_false hlong),
      keylenError_eq, State.complete_error_eq]
  case secret =>
    have hrun : runOf i r s.sample = .error e := by
      have hok := (Regs.digitsOk_iff r).2 ⟨hmin, hmax⟩
      fin_cases hi
      · exact runGetcode_secret hok he
      · exact runVerify_secret hok he
    rw [exec_eq_complete_runOf, hrun, State.complete_error_eq]
  case clock =>
    have hok := (Regs.digitsOk_iff r).2 ⟨hmin, hmax⟩
    have hresolve : resolve r.tslice s.sample = .error ⟨.clockUnavailable, 0⟩ := by
      rw [hzero, resolve_unavailable hinvalid]
    refine ⟨?_, fun hgate => ?_⟩
    · rw [exec_getcode, runGetcode_clock hok hkey hresolve, State.complete_error_eq]
    · rw [exec_verify, runVerify_clock hok hkey hgate hresolve, State.complete_error_eq]

end Sys2Proof.Machine
end

section
/-! PROOF. What one event does to the block, and the invariants of every step (10_state R21, R26, R31, R34, R40, R56,
60_exceptions R221, R235, 70_reset R250). -/

namespace Sys2Proof.Machine

/-! ## The rows of the register map behind a target -/

theorem target_cases {off : Addr} {n : RegName} (h : target off = some n) :
    n ∈ namedRegs ∨ ∃ b k, n = .bufWord b k ∧ 4 * k + 4 ≤ b.size := by
  have haligned := (offsetOf_of_target h).1
  rw [target, if_pos haligned] at h
  by_cases hbuf : ∃ b : Buf, b.holds off.toNat = true
  case pos =>
    obtain ⟨b, hb⟩ := hbuf
    rw [regAt_of_holds hb, bufWordAt_of_holds hb, Option.some.injEq] at h
    rw [Buf.holds_iff] at hb
    have hsize : b.size % 4 = 0 ∧ b.base % 4 = 0 := by cases b <;> decide
    exact .inr ⟨b, _, h.symm, by omega⟩
  case neg =>
    have hnone : ∀ b, bufWordAt b off.toNat = none := fun b => (bufWordAt_eq_none_iff b _).2 fun hb => hbuf ⟨b, hb⟩
    simp only [regAt, hnone, Option.orElse_eq_orElse, Option.orElse_eq_or, Option.or_none] at h
    exact .inl (List.mem_of_find?_eq_some h)

theorem not_mem_namedRegs_bufWord (b : Buf) (k : Nat) : RegName.bufWord b k ∉ namedRegs := by
  simp [namedRegs]

theorem eq_ctrl_of_target {off : Addr} (h : target off = some .ctrl) : off = 0x004 :=
  BitVec.eq_of_toNat_eq (offsetOf_of_target h).2.symm

/-! ## What one event does to the block -/

/-- How an event takes the registers and the phase of `s` to those of `t`; the cause of a reset is `cause`. -/
inductive BlockEvent (cause : Prop) (s t : State) : Prop
  /-- Nothing of the block but the clock port changes. -/
  | same (hregs : t.regs = s.regs) (hphase : t.phase = s.phase) (hpin : t.rstN = s.rstN)
  /-- A reset, hard or soft. -/
  | reset (hcause : cause) (hregs : t.regs = Regs.reset) (hphase : t.phase = .idle)
  /-- The completion of the pending command. -/
  | completion (op : Instr) (snap : Regs) (wc : ClockSample) (hpending : s.phase = .pending op snap wc)
      (hregs : t.regs = s.regs.complete (runOf op snap wc)) (hphase : t.phase = .idle) (hpin : t.rstN = s.rstN)
  /-- A write that changes CTRL.IE, clears DONE, or changes WERR. -/
  | flags (ie done werr : Bool) (hdone : done = true → s.regs.done = true)
      (hregs : t.regs = { s.regs with ie := ie, done := done, werr := werr }) (hphase : t.phase = s.phase)
      (hpin : t.rstN = true)
  /-- An accepted CMD write. -/
  | issue (w : Word) (hregs : t.regs = s.regs.flagsAtIssue) (hphase : t.phase = .pending (decodeWord w) s.regs s.wc)
      (hpin : t.rstN = true)
  /-- An accepted write of an RW register or buffer word. -/
  | store (off : Addr) (n : RegName) (v : Word) (htarget : target off = some n) (hidle : s.phase = .idle)
      (hregs : t.regs = s.regs.store n v) (hphase : t.phase = .idle) (hpin : t.rstN = true)

theorem blockEvent_writeCtrl {s : State} {v : Word} {cause : Prop} (hcause : v.getLsbD 1 = true → cause)
    (hpin : s.rstN = true) : BlockEvent cause s (s.writeCtrl v) := by
  cases hsrst : v.getLsbD 1 with
  | true =>
    rw [State.writeCtrl_srst s hsrst]
    exact .reset (hcause hsrst) rfl rfl
  | false =>
    rw [State.writeCtrl, bitOf, hsrst, if_neg Bool.false_ne_true]
    exact .flags (bitOf v 0) s.regs.done s.regs.werr id rfl rfl hpin

theorem blockEvent_writeReg {s : State} {off : Addr} {n : RegName} {v : Word} {cause : Prop}
    (htarget : target off = some n) (hcause : off = 0x004 → v.getLsbD 1 = true → cause) (hpin : s.rstN = true) :
    BlockEvent cause s (s.writeReg n v) := by
  rcases State.writeReg_cases s n v with ⟨rfl, hw⟩ | ⟨rfl, hw⟩ | ⟨-, -, -, hw⟩ | ⟨rfl, -, hw⟩ | ⟨-, hidle, hw⟩ |
    ⟨-, -, hw⟩ <;> rw [hw]
  · exact blockEvent_writeCtrl (hcause (eq_ctrl_of_target htarget)) hpin
  · exact .flags s.regs.ie (s.regs.done && !bitOf v 1) (s.regs.werr && !bitOf v 3)
      (fun h => (Bool.and_eq_true_iff.1 h).1) rfl rfl hpin
  · exact .flags s.regs.ie s.regs.done true id rfl rfl hpin
  · exact .issue v rfl rfl hpin
  · have hphase := (State.not_busy_iff s).1 hidle
    exact .store off n v htarget hphase rfl hphase hpin
  · exact .same rfl rfl rfl

/-- An event is told by the registers, the phase, the clock and the pin alone. -/
theorem BlockEvent.congr {cause : Prop} {s s' t t' : State} (h : BlockEvent cause s t) (hregs : s'.regs = s.regs)
    (hphase : s'.phase = s.phase) (hpin : s'.rstN = s.rstN) (hwc : s'.wc = s.wc) (hregs' : t'.regs = t.regs)
    (hphase' : t'.phase = t.phase) (hpin' : t'.rstN = t.rstN) : BlockEvent cause s' t' := by
  cases s; cases s'; cases t; cases t'
  subst hregs hphase hpin hwc hregs' hphase' hpin'
  cases h with
  | same hr hp hn => exact .same hr hp hn
  | reset hc hr hp => exact .reset hc hr hp
  | completion op snap wc h hr hp hn => exact .completion op snap wc h hr hp hn
  | flags ie done werr hd hr hp hn => exact .flags ie done werr hd hr hp hn
  | issue w hr hp hn => exact .issue w hr hp hn
  | store off n v ht hi hr hp hn => exact .store off n v ht hi hr hp hn

/-- The steps that may reset the block: a pin turn other than one that leaves rst_n at 1 (70_reset R250), and the
host's CTRL write with SRST (R252). -/
def ResetCause (s : State) : Prop :=
  (∃ level, s.nextTurn = .resetPin level ∧ ¬ (level = true ∧ s.rstN = true)) ∨
  (s.nextTurn = .host ∧ ∃ v rest, s.program = .wr 0x004 v :: rest ∧ v.getLsbD 1 = true)

theorem State.hostTurn_cases {s t : State} (h : s.hostTurn = .next t) :
    t = s ∨ ∃ op rest, s.program = op :: rest ∧ (s.rstN = true ∨ op.onBus = false) ∧
      t = State.hostOp { s with program := rest } op := by
  unfold State.hostTurn at h
  split at h
  · cases h
    exact .inl rfl
  · split at h
    · rename_i hallowed
      rw [Bool.or_eq_true, Bool.not_eq_true'] at hallowed
      cases h
      exact .inr ⟨_, _, ‹_›, hallowed, rfl⟩
    · cases h

theorem blockEvent_busWrite {s : State} {off : Addr} {v : Word} {cause : Prop}
    (hcause : off = 0x004 → v.getLsbD 1 = true → cause) (hpin : s.rstN = true) :
    BlockEvent cause s (s.busWrite off v) := by
  cases htarget : target off with
  | none =>
    rw [State.busWrite_unmapped v htarget]
    exact .same rfl rfl rfl
  | some n =>
    rw [State.busWrite_mapped v htarget]
    exact (blockEvent_writeReg htarget hcause hpin).congr rfl rfl rfl rfl rfl rfl rfl

theorem blockEvent_hostOp {s : State} {op : HostOp} {cause : Prop}
    (hcause : ∀ v, op = .wr 0x004 v → v.getLsbD 1 = true → cause) (hallowed : s.rstN = true ∨ op.onBus = false) :
    BlockEvent cause s (State.hostOp s op) := by
  rcases State.hostOp_cases s op with ⟨off, p, hop⟩ | ⟨off, v, rfl, hop⟩ | ⟨-, p, hop⟩ <;> rw [hop]
  · exact .same rfl rfl rfl
  · refine blockEvent_busWrite (fun hoff hsrst => hcause v (by rw [hoff]) hsrst) (hallowed.resolve_right ?_)
    exact Bool.true_eq_false_eq_False
  · exact .same rfl rfl rfl

/-- The inversion of a step, as to the block. -/
theorem blockEvent_of_step {s t : State} (h : step s = .next t) : BlockEvent (ResetCause s) s t := by
  rw [step_eq_takeTurn] at h
  cases hturn : s.nextTurn with
  | host =>
    rw [hturn, State.takeTurn] at h
    rcases State.hostTurn_cases h with rfl | ⟨op, rest, hprogram, hallowed, rfl⟩
    · exact .same rfl rfl rfl
    · refine (blockEvent_hostOp (s := { s with turns := s.turns.tail, program := rest }) (fun v hop hsrst => ?_)
        hallowed).congr rfl rfl rfl rfl rfl rfl rfl
      exact .inr ⟨hturn, v, rest, hop ▸ hprogram, hsrst⟩
  | engine =>
    rw [hturn, State.takeTurn] at h
    cases hphase : s.phase with
    | idle =>
      rw [State.engineTurn, hphase] at h
      cases h
      exact .same rfl hphase.symm rfl
    | pending op snap wc =>
      have hphase' : State.phase { s with turns := s.turns.tail } = .pending op snap wc := hphase
      rw [State.engineTurn_pending hphase', exec_of_pending hphase'] at h
      cases h
      exact .completion op snap wc hphase rfl rfl rfl
  | clock wc =>
    rw [hturn, State.takeTurn] at h
    cases h
    exact .same rfl rfl rfl
  | resetPin level =>
    rw [hturn, State.takeTurn, State.resetPinTurn] at h
    by_cases hstays : (level && s.rstN) = true
    case pos =>
      rw [if_pos hstays] at h
      cases h
      exact .same rfl rfl rfl
    case neg =>
      rw [if_neg hstays] at h
      cases h
      exact .reset (.inl ⟨level, hturn, fun hhigh => hstays (Bool.and_eq_true_iff.2 hhigh)⟩) rfl rfl

/-! ## The buffers -/

/-- A write inside one buffer keeps the memory canonical and inside the buffers. -/
theorem Memory.kept_writeBytes {m : Memory} {b : Buf} {j : Nat} {bs : List Byte} (hlen : j + bs.length ≤ b.size)
    (h : m.wf = true ∧ (m.all fun cell => inBuffer cell.1) = true) :
    (m.writeBytes (b.base + j) bs).wf = true ∧
      ((m.writeBytes (b.base + j) bs).all fun cell => inBuffer cell.1) = true := by
  refine ⟨Memory.wf_writeBytes _ bs h.1, Memory.all_writeBytes (p := inBuffer) _ bs (fun i hi => ?_) h.2⟩
  exact (inBuffer_iff _).2 ⟨b, by omega, by omega⟩

theorem Memory.kept_writeOption {m : Memory} {b : Buf} {o : Option (List Byte)}
    (hlen : ∀ bs, o = some bs → bs.length = b.size) (h : m.wf = true ∧ (m.all fun cell => inBuffer cell.1) = true) :
    (m.writeOption b o).wf = true ∧ ((m.writeOption b o).all fun cell => inBuffer cell.1) = true := by
  cases o with
  | none => exact h
  | some bs => exact Memory.kept_writeBytes (j := 0) (by rw [hlen bs rfl, Nat.zero_add]) h

theorem Commits.buffersKept_commit {i : Instr} {c : Commit} (hc : Commits i c) {r : Regs}
    (h : r.buffersKept = true) : (r.commit c).buffersKept = true := by
  rw [Regs.buffersKept_iff] at h ⊢
  exact Memory.kept_writeOption (fun _ hbs => (hc.str_some hbs).1)
    (Memory.kept_writeOption (fun _ hbs => (hc.digest_some hbs).1)
      (Memory.kept_writeOption (fun _ hbs => (hc.key_some hbs).1) h))

/-- A store into a register leaves the buffers as they are. -/
theorem Regs.mem_store_of_mem_namedRegs (r : Regs) {n : RegName} (v : Word) (h : n ∈ namedRegs) :
    (r.store n v).mem = r.mem := by
  cases n with
  | bufWord b k => exact absurd h (not_mem_namedRegs_bufWord b k)
  | cfg =>
    rw [Regs.store, Regs.writeCfg]
    split <;> rfl
  | id | ctrl | cmd | status | errinfo | seclen | keylen | candlen | offset | trunc | bincode | code | timeLo | timeHi
  | tsliceLo | tsliceHi | counterLo | counterHi | discLo | discHi | matchctrLo | matchctrHi => rfl

theorem Regs.buffersKept_store {r : Regs} {off : Addr} {n : RegName} (v : Word) (htarget : target off = some n)
    (h : r.buffersKept = true) : (r.store n v).buffersKept = true := by
  rw [Regs.buffersKept_iff] at h ⊢
  rcases target_cases htarget with hnamed | ⟨b, k, rfl, hk⟩
  · rwa [Regs.mem_store_of_mem_namedRegs r v hnamed]
  · exact Memory.kept_writeBytes (bs := laneBytes v) hk h

/-! ## The result registers -/

theorem Commits.bincodeKept_commit {i : Instr} {c : Commit} (hc : Commits i c) {r : Regs}
    (h : r.bincodeKept = true) : (r.commit c).bincodeKept = true := by
  rw [Regs.bincodeKept_iff] at h ⊢
  cases hcode : c.code with
  | none => simpa [hcode] using h
  | some tr =>
    obtain ⟨⟨d, n, rfl⟩, -⟩ := hc.code_some hcode
    simp [hcode, dynTrunc, binCode]

theorem Regs.bincodeKept_complete {r : Regs} (i : Instr) (snap : Regs) (wc : ClockSample) (h : r.bincodeKept = true) :
    (r.complete (runOf i snap wc)).bincodeKept = true := by
  cases hrun : runOf i snap wc with
  | error e => exact h
  | ok c => exact (commits_of_runOf hrun).bincodeKept_commit h

/-- Whatever ERR and ERRINFO were, a completion sets them in agreement. -/
theorem Regs.errorKept_complete (r : Regs) (i : Instr) (snap : Regs) (wc : ClockSample) :
    (r.complete (runOf i snap wc)).errorKept = true := by
  rw [Regs.errorKept_iff]
  cases hrun : runOf i snap wc with
  | error e =>
    obtain ⟨hcode, hinfo⟩ := isCommandError_of_runOf hrun
    exact ⟨fun hm => absurd hm Bool.false_ne_true, fun hok => absurd hok hcode, hinfo⟩
  | ok c => simp

/-- No store reaches a result register. -/
theorem Regs.store_results (r : Regs) (n : RegName) (v : Word) :
    (r.store n v).trunc = r.trunc ∧ (r.store n v).bincode = r.bincode ∧ (r.store n v).matched = r.matched ∧
      (r.store n v).err = r.err ∧ (r.store n v).errinfo = r.errinfo := by
  cases n with
  | cfg =>
    rw [Regs.store, Regs.writeCfg]
    split <;> exact ⟨rfl, rfl, rfl, rfl, rfl⟩
  | id | ctrl | cmd | status | errinfo | seclen | keylen | candlen | offset | trunc | bincode | code | timeLo | timeHi
  | tsliceLo | tsliceHi | counterLo | counterHi | discLo | discHi | matchctrLo | matchctrHi | bufWord b k =>
    exact ⟨rfl, rfl, rfl, rfl, rfl⟩

/-! ## A run without a reset -/

/-- A command is pending, and none of the events to come is a reset. -/
structure PendingRun (s : State) : Prop where
  busy : s.busy = true
  rstN : s.rstN = true
  pins : ∀ level, Turn.resetPin level ∈ s.turns → level = true
  writes : ∀ v, HostOp.wr 0x004 v ∈ s.program → v.getLsbD 1 = false

theorem PendingRun.not_resetCause {s : State} (h : PendingRun s) : ¬ ResetCause s := by
  rintro (⟨level, hturn, hlow⟩ | ⟨-, v, rest, hprogram, hsrst⟩)
  · refine hlow ⟨h.pins level ?_, h.rstN⟩
    cases hturns : s.turns with
    | nil =>
      rw [State.nextTurn_nil hturns, h.busy, if_pos rfl] at hturn
      cases hturn
    | cons u us =>
      rw [State.nextTurn_cons hturns] at hturn
      exact hturn ▸ List.mem_cons_self
  · rw [h.writes v (hprogram ▸ List.mem_cons_self)] at hsrst
    cases hsrst

/-- Without a reset, an event completes the pending command or leaves one pending. -/
theorem BlockEvent.completed_or_busy {cause : Prop} {s t : State} (h : BlockEvent cause s t) (hcause : ¬ cause)
    (hbusy : s.busy = true) (hpin : s.rstN = true) :
    (t.phase = .idle ∧ t.regs.done = true) ∨ (t.busy = true ∧ t.rstN = true) := by
  cases h with
  | same hregs hphase hn => exact .inr ⟨by rwa [State.busy, hphase], hn.trans hpin⟩
  | reset hc => exact absurd hc hcause
  | completion op snap wc hpending hregs hphase hn => exact .inl ⟨hphase, by rw [hregs, Regs.complete_done]⟩
  | flags ie done werr hdone hregs hphase hn => exact .inr ⟨by rwa [State.busy, hphase], hn⟩
  | issue w hregs hphase hn => exact .inr ⟨by rw [State.busy, hphase, Phase.busy], hn⟩
  | store off n v htarget hidle =>
    rw [(State.not_busy_iff s).2 hidle] at hbusy
    cases hbusy

/-- A bus write leaves the environment's own fields as they are. -/
theorem State.busWrite_environment (s : State) (off : Addr) (v : Word) :
    (s.busWrite off v).program = s.program ∧ (s.busWrite off v).turns = s.turns := by
  cases htarget : target off with
  | none =>
    rw [State.busWrite_unmapped v htarget]
    exact ⟨rfl, rfl⟩
  | some n =>
    rw [State.busWrite_mapped v htarget, State.respond_program, State.respond_turns]
    rcases State.writeReg_cases s n v with ⟨-, hw⟩ | ⟨-, hw⟩ | ⟨-, -, -, hw⟩ | ⟨-, -, hw⟩ | ⟨-, -, hw⟩ |
      ⟨-, -, hw⟩ <;> rw [hw]
    · rw [State.writeCtrl]
      split <;> exact ⟨rfl, rfl⟩
    all_goals exact ⟨rfl, rfl⟩

/-- A host action leaves in the program what it held, or puts the action back. -/
theorem State.hostOp_environment (s : State) (op : HostOp) :
    (State.hostOp s op).program ⊆ op :: s.program ∧ (State.hostOp s op).turns = s.turns := by
  have hkept : s.program ⊆ op :: s.program := List.subset_cons_self op s.program
  cases op with
  | rd off => exact ⟨hkept, rfl⟩
  | wr off v =>
    obtain ⟨hprogram, hturns⟩ := State.busWrite_environment s off v
    exact ⟨hprogram.symm ▸ hkept, hturns⟩
  | poll off mask v =>
    rw [State.hostOp]
    split
    · exact ⟨hkept, rfl⟩
    · exact ⟨List.Subset.refl _, rfl⟩
  | waitIrq =>
    rw [State.hostOp]
    split
    · exact ⟨hkept, rfl⟩
    · exact ⟨List.Subset.refl _, rfl⟩

/-- Out of reset every turn has a next state, and adds no action to the program. -/
theorem State.takeTurn_next_of_rstN {s : State} (u : Turn) (hpin : s.rstN = true) :
    ∃ t, s.takeTurn u = .next t ∧ t.turns = s.turns ∧ t.program ⊆ s.program := by
  cases u with
  | host =>
    rcases hprogram : s.program with - | ⟨op, rest⟩
    · exact ⟨s, by simp only [State.takeTurn, State.hostTurn, hprogram], rfl, hprogram ▸ List.Subset.refl _⟩
    · obtain ⟨hsub, hturns⟩ := State.hostOp_environment { s with program := rest } op
      exact ⟨_, State.hostTurn_cons hprogram (.inl hpin), hturns, hsub⟩
  | engine =>
    rcases hphase : s.phase with - | ⟨op, snap, wc⟩
    · exact ⟨s, by simp only [State.takeTurn, State.engineTurn, hphase], rfl, List.Subset.refl _⟩
    · exact ⟨_, (State.engineTurn_pending hphase).trans (exec_of_pending hphase), rfl, List.Subset.refl _⟩
  | clock wc => exact ⟨_, rfl, rfl, List.Subset.refl _⟩
  | resetPin level =>
    refine ⟨_, rfl, ?_⟩
    rw [State.resetPinTurn]
    split <;> exact ⟨rfl, List.Subset.refl _⟩

theorem step_next_of_rstN {s : State} {u : Turn} {rest : List Turn} (hpin : s.rstN = true)
    (hturns : s.turns = u :: rest) : ∃ t, step s = .next t ∧ t.turns = rest ∧ t.program ⊆ s.program := by
  rw [step_turn hturns]
  exact State.takeTurn_next_of_rstN (s := { s with turns := rest }) u hpin

theorem PendingRun.completed_or_pendingRun {s t : State} {u : Turn} (h : PendingRun s) (hstep : step s = .next t)
    (hturns : s.turns = u :: t.turns) (hprogram : t.program ⊆ s.program) :
    (t.phase = .idle ∧ t.regs.done = true) ∨ PendingRun t := by
  rcases (blockEvent_of_step hstep).completed_or_busy h.not_resetCause h.busy h.rstN with hdone | ⟨hbusy, hpin⟩
  · exact .inl hdone
  · exact .inr ⟨hbusy, hpin, fun level hl => h.pins level (hturns ▸ List.mem_cons_of_mem _ hl),
      fun v hv => h.writes v (hprogram hv)⟩

/-- With no turn listed the engine moves, and completes the pending command. -/
theorem PendingRun.completes_of_no_turn {s : State} (h : PendingRun s) (hturns : s.turns = []) :
    ∃ t, step s = .next t ∧ t.phase = .idle ∧ t.regs.done = true := by
  obtain ⟨op, snap, wc, hphase⟩ := (State.busy_iff s).1 h.busy
  refine ⟨_, ?_, State.complete_phase s (runOf op snap wc), Regs.complete_done _ _⟩
  rw [step_no_turn hturns, h.busy, if_pos rfl, State.takeTurn, State.engineTurn_pending hphase, exec_of_pending hphase]

theorem PendingRun.completes {s : State} (h : PendingRun s) :
    ∃ k t, k ≤ s.turns.length ∧ Host.Core.run Sys2Proof.core (k + 1) s = .next t ∧ t.phase = .idle ∧
      t.regs.done = true := by
  induction hturns : s.turns generalizing s with
  | nil =>
    obtain ⟨t, hstep, hdone⟩ := h.completes_of_no_turn hturns
    exact ⟨0, t, le_refl _, core_run_next 0 hstep, hdone⟩
  | cons u rest ih =>
    obtain ⟨t, hstep, htail, hprogram⟩ := step_next_of_rstN h.rstN hturns
    rcases h.completed_or_pendingRun hstep (htail.symm ▸ hturns) hprogram with hdone | hpending
    · exact ⟨0, t, Nat.zero_le _, core_run_next 0 hstep, hdone⟩
    · obtain ⟨k, v, hk, hrun, hdone⟩ := ih hpending htail
      exact ⟨k + 1, v, Nat.succ_le_succ hk, (core_run_next (k + 1) hstep).trans hrun, hdone⟩

/-! ## The statements -/

/-- Settles O55: a commit writes whole buffers, a store one word of a buffer, and a reset clears them; no other event
touches the memory. -/
theorem stepKeepsBuffers : Obligations.StepKeepsBuffers := by
  intro s t h hstep
  cases blockEvent_of_step hstep with
  | same hregs => rwa [hregs]
  | reset hcause hregs =>
    rw [hregs]
    decide
  | completion op snap wc hpending hregs =>
    rw [hregs]
    cases hrun : runOf op snap wc with
    | error e => exact h
    | ok c => exact (commits_of_runOf hrun).buffersKept_commit h
  | flags ie done werr hdone hregs =>
    rw [hregs]
    exact h
  | issue w hregs =>
    rw [hregs]
    exact h
  | store off n v htarget hidle hregs =>
    rw [hregs]
    exact Regs.buffersKept_store v htarget h

/-- Settles O56: an issue makes the snapshot of the registers as they stand, and of the events that leave the command
pending only the flag writes touch the registers. -/
theorem stepKeepsSnapshotEqualToRegisters : Obligations.StepKeepsSnapshotEqualToRegisters := by
  intro s t h hstep
  cases blockEvent_of_step hstep with
  | same hregs hphase =>
    rwa [State.pendingKept, hregs, hphase]
  | reset hcause hregs hphase => exact State.pendingKept_of_idle hphase
  | completion op snap wc hpending hregs hphase => exact State.pendingKept_of_idle hphase
  | flags ie done werr hdone hregs hphase =>
    cases hs : s.phase with
    | idle => exact State.pendingKept_of_idle (hphase.trans hs)
    | pending op snap wc =>
      rw [State.pendingKept_iff_of_pending hs] at h
      rw [State.pendingKept_iff_of_pending (hphase.trans hs), hregs]
      obtain ⟨hwf, hnotdone, hsnap⟩ := h
      refine ⟨hwf, ?_, hsnap⟩
      cases done with
      | false => rfl
      | true => exact absurd (hdone rfl) (by simp [hnotdone])
  | issue w hregs hphase =>
    rw [State.pendingKept_iff_of_pending hphase, hregs]
    exact ⟨wf_decodeWord w, rfl, rfl⟩
  | store off n v htarget hidle hregs hphase => exact State.pendingKept_of_idle hphase

/-- Settles O57: a completion sets MATCH, ERR and ERRINFO together, and TRUNC and BINCODE from one digest; no write
reaches these registers. -/
theorem stepKeepsResultRegisters : Obligations.StepKeepsResultRegisters := by
  intro s t hbincode herror hstep
  cases blockEvent_of_step hstep with
  | same hregs =>
    rw [hregs]
    exact ⟨hbincode, herror⟩
  | reset hcause hregs =>
    rw [hregs]
    decide
  | completion op snap wc hpending hregs =>
    rw [hregs]
    exact ⟨Regs.bincodeKept_complete op snap wc hbincode, Regs.errorKept_complete s.regs op snap wc⟩
  | flags ie done werr hdone hregs =>
    rw [hregs]
    exact ⟨hbincode, herror⟩
  | issue w hregs =>
    rw [hregs]
    exact ⟨hbincode, herror⟩
  | store off n v htarget hidle hregs =>
    obtain ⟨htrunc, hbin, hmatched, herr, hinfo⟩ := Regs.store_results s.regs n v
    rw [hregs, Regs.bincodeKept, Regs.errorKept, htrunc, hbin, hmatched, herr, hinfo]
    exact ⟨hbincode, herror⟩

/-- Settles O58: while rst_n = 0 no command is pending and no write is performed, so that only resets touch the
block. -/
theorem stepKeepsReset : Obligations.StepKeepsReset := by
  intro s t h hstep
  rw [State.resetKept_iff] at h ⊢
  intro hlow
  cases blockEvent_of_step hstep with
  | same hregs hphase hpin =>
    rw [hregs, hphase]
    exact h (hpin ▸ hlow)
  | reset hcause hregs hphase => exact ⟨hregs, hphase⟩
  | completion op snap wc hpending hregs hphase hpin =>
    rw [(h (hpin ▸ hlow)).2] at hpending
    cases hpending
  | flags _ _ _ _ _ _ hpin | issue _ _ _ hpin | store _ _ _ _ _ _ _ hpin =>
    rw [hpin] at hlow
    cases hlow

/-- A locked CFG is not written. -/
theorem Regs.cfg_store_of_locked {r : Regs} (n : RegName) (v : Word) (h : r.lock = true) :
    (r.store n v).lock = true ∧ (r.store n v).digits = r.digits := by
  cases n with
  | cfg =>
    rw [Regs.store, Regs.writeCfg, if_pos h]
    exact ⟨h, rfl⟩
  | id | ctrl | cmd | status | errinfo | seclen | keylen | candlen | offset | trunc | bincode | code | timeLo | timeHi
  | tsliceLo | tsliceHi | counterLo | counterHi | discLo | discHi | matchctrLo | matchctrHi | bufWord b k =>
    exact ⟨h, rfl⟩

/-- Settles O48: CFG is no result of a command, a store while locked drops a CFG write, and the step is no reset. -/
theorem lockedCfgKeptByEveryStep : Obligations.LockedCfgKeptByEveryStep := by
  intro s t hlock hstep hpins hwrites
  cases blockEvent_of_step hstep with
  | same hregs =>
    rw [hregs]
    exact ⟨hlock, rfl⟩
  | reset hcause =>
    rcases hcause with ⟨level, hturn, hlow⟩ | ⟨hturn, v, rest, hprogram, hsrst⟩
    · exact absurd (hpins level hturn) hlow
    · rw [hwrites hturn v rest hprogram] at hsrst
      cases hsrst
  | completion op snap wc hpending hregs =>
    rw [hregs]
    cases runOf op snap wc <;> exact ⟨hlock, rfl⟩
  | flags ie done werr hdone hregs =>
    rw [hregs]
    exact ⟨hlock, rfl⟩
  | issue w hregs =>
    rw [hregs]
    exact ⟨hlock, rfl⟩
  | store off n v htarget hidle hregs =>
    rw [hregs]
    exact Regs.cfg_store_of_locked n v hlock

/-- Settles O59, by induction on the list of turns: each turn completes the command or leaves it pending, and with the
list used up the engine completes it. -/
theorem pendingCommandCompletes : Obligations.PendingCommandCompletes :=
  fun _ hbusy hpin hpins hwrites => PendingRun.completes ⟨hbusy, hpin, hpins, hwrites⟩

end Sys2Proof.Machine
end

section
/-! PROOF. Events and bus transactions written out: the engine's and the host's turns (20_memory R79, 60_exceptions
R236), the writes of CTRL, STATUS, CFG and while BUSY (10_state R24 to R28, 20_memory R80), and reset (70_reset R250 to
R252). -/

namespace Sys2Proof.Machine

/-! ## One step -/

theorem decodeTableWord_toNat (w : Word) : decodeTableWord 32 w.toNat = some (decodeWord w) := by
  rw [decodeTableWord, Nat.mod_eq_of_lt w.isLt, if_pos w.isLt, BitVec.ofNat_toNat, BitVec.setWidth_eq]

theorem withFetchWord_toNat (s : State) (w : Word) : s.withFetchWord 32 w.toNat = s.placeCommand w := by
  rw [State.withFetchWord, decodeTableWord_toNat]
  exact congrArg s.placeCommand (encode_decodeWord w)

/-- Settles O5: the placed command is pending with the engine's turn first, and the engine's turn is `exec` of what is
pending. -/
theorem stepRunsDecodedCommand : Obligations.StepRunsDecodedCommand := by
  refine ⟨fun s w => ?placed, fun s op snap wc hpending => ⟨fun hturns => ?default, fun rest hturns => ?listed⟩⟩
  case placed =>
    rw [withFetchWord_toNat, step_turn (State.placeCommand_turns s w), State.takeTurn,
      State.engineTurn_pending (op := decodeWord w) rfl]
    rfl
  case default =>
    have hbusy : s.busy = true := (State.busy_iff s).2 ⟨op, snap, wc, hpending⟩
    rw [step_no_turn hturns, hbusy, if_pos rfl, State.takeTurn, State.engineTurn_pending hpending]
  case listed =>
    rw [step_turn hturns, State.takeTurn]
    exact State.engineTurn_pending hpending

/-- The read data of a transaction: the register's word, or 0 where none is reached (20_memory R71, R74). -/
theorem pollDone_readResponse (s : State) (off : Addr) (mask v : Word) :
    pollDone (s.readResponse off) mask v = true ↔ (target off).elim 0 s.readReg &&& mask = v := by
  rw [State.readResponse]
  cases target off <;> exact beq_iff_eq

/-- A host turn from the list of turns, out of reset or off the bus, performs the first action of the program. -/
theorem step_host_cons {s : State} {ts : List Turn} {op : HostOp} {rest : List HostOp} (hturns : s.turns = .host :: ts)
    (hprogram : s.program = op :: rest) (hallowed : s.rstN = true ∨ op.onBus = false) :
    step s = .next (State.hostOp { s with turns := ts, program := rest } op) := by
  rw [step_turn hturns, State.takeTurn]
  exact State.hostTurn_cons hprogram hallowed

theorem State.hostOp_poll_again {s : State} {off : Addr} {mask v : Word}
    (h : ¬ pollDone (s.readResponse off) mask v = true) :
    s.hostOp (.poll off mask v) = { s.busRead off with program := .poll off mask v :: s.program } :=
  if_neg h

theorem State.hostOp_waitIrq_low {s : State} (h : s.irq = false) :
    s.hostOp .waitIrq = { s with program := .waitIrq :: s.program } :=
  if_neg (by rw [h]; exact Bool.false_ne_true)

/-- Settles O6: the step is one host action, which takes itself off the program, or, unfinished, puts itself back. -/
theorem hostTurnPerformsTransaction : Obligations.HostTurnPerformsTransaction := by
  intro s ts rest hturns
  refine ⟨fun hprogram => ?none, fun off hprogram hpin => step_host_cons hturns hprogram (.inl hpin),
    fun off v hprogram hpin => step_host_cons hturns hprogram (.inl hpin),
    fun off mask v hprogram hpin => ⟨fun hdata => ?polled, fun hdata => ?polling⟩,
    fun hprogram => ⟨fun hirq => ?irq, fun hirq => ?waiting⟩, fun op hprogram hlow hop => ?refused⟩
  case none => simp only [step_turn hturns, State.takeTurn, State.hostTurn, hprogram]
  case polled =>
    rw [step_host_cons hturns hprogram (.inl hpin)]
    exact congrArg Host.Outcome.next (if_pos ((pollDone_readResponse s off mask v).2 hdata))
  case polling =>
    have hagain := State.hostOp_poll_again (s := { s with turns := ts, program := rest })
      fun hdone => hdata ((pollDone_readResponse s off mask v).1 hdone)
    rw [step_host_cons hturns hprogram (.inl hpin), hagain, hprogram]
    rfl
  case irq =>
    rw [step_host_cons hturns hprogram (.inr rfl)]
    exact congrArg Host.Outcome.next (if_pos hirq)
  case waiting =>
    have hwait := State.hostOp_waitIrq_low (s := { s with turns := ts, program := rest }) hirq
    rw [step_host_cons hturns hprogram (.inr rfl), hwait, hprogram]
  case refused =>
    have hbus : op.onBus = true := by
      cases op with
      | waitIrq => exact absurd rfl hop
      | rd | wr | poll => rfl
    rw [step_turn hturns, State.takeTurn]
    exact State.hostTurn_refused hprogram hlow hbus

/-! ## Writes of CTRL, STATUS and CFG, and writes while BUSY -/

theorem State.writeCtrl_ie (s : State) {v : Word} (h : v.getLsbD 1 = false) :
    s.writeCtrl v = s.setRegs { s.regs with ie := v.getLsbD 0 } :=
  if_neg (by rw [bitOf, h]; exact Bool.false_ne_true)

theorem State.busWrite_cfg (s : State) (v : Word) :
    s.busWrite 0x008 v = (s.writeReg .cfg v).respond (.write false) :=
  State.busWrite_mapped v (n := .cfg) (by decide)

/-- Settles O44: the write of each target is one update of the registers, and a read records its response alone. -/
theorem busyWritesIgnored : Obligations.BusyWritesIgnored := by
  intro s off v n htarget
  rw [State.busWrite_mapped v htarget, State.busRead_mapped htarget]
  refine ⟨fun hbusy hctrl hstatus => ?ignored, ?ie, ?srst, ?status, rfl⟩
  case ignored =>
    rw [State.writeReg_busy v hbusy hctrl hstatus]
    rfl
  case ie =>
    rintro rfl hsrst
    rw [State.writeReg, State.writeCtrl_ie s hsrst]
    rfl
  case srst =>
    rintro rfl hsrst
    rw [State.writeReg, State.writeCtrl_srst s hsrst]
    rfl
  case status =>
    rintro rfl
    rfl

/-- Settles O47: BUSY is looked at first and LOCK second. -/
theorem cfgLocks : Obligations.CfgLocks := by
  intro s v
  rw [State.busWrite_cfg]
  refine ⟨fun hidle hopen => ?written, fun hidle hlock => ?dropped, fun hbusy hlock => ?ignored⟩
  case written =>
    rw [State.writeReg_rw_idle v hidle rfl, Regs.store, Regs.writeCfg, hopen, if_neg Bool.false_ne_true]
    rfl
  case dropped =>
    rw [State.writeReg_rw_idle v hidle rfl, Regs.store, Regs.writeCfg, if_pos hlock]
    rfl
  case ignored =>
    rw [State.writeReg_busy v hbusy (by decide) (by decide)]
    rfl

theorem toNat_ofBool_append (n : Nat) (b : Bool) : (0#n ++ BitVec.ofBool b).toNat = b.toNat := by
  cases b <;> simp [BitVec.toNat_append]

/-- Settles O49: the CTRL write without SRST sets IE alone, with SRST it is the reset, whose IE is 0. -/
theorem ctrlAndInterrupt : Obligations.CtrlAndInterrupt := by
  intro s v
  rw [State.busWrite_ctrl]
  refine ⟨fun hsrst => ?ie, fun hsrst => ?srst, toNat_ofBool_append 31 s.regs.ie, Bool.and_eq_true_iff⟩
  case ie =>
    rw [State.writeCtrl_ie s hsrst]
    exact ⟨rfl, rfl⟩
  case srst =>
    rw [State.writeCtrl_srst s hsrst]
    rfl

/-- Settles O50: with the four flags and the error code given, the word is a literal. -/
theorem statusFields : Obligations.StatusFields := by
  intro s
  have hword : ∀ (busy done matched werr : Bool) (e : BitVec 4),
      (0#20 ++ e ++ 0#4 ++ BitVec.ofBool werr ++ BitVec.ofBool matched ++ BitVec.ofBool done ++
        BitVec.ofBool busy).toNat =
      busy.toNat + 2 * done.toNat + 4 * matched.toNat + 8 * werr.toNat + 256 * e.toNat := by
    decide
  rw [State.readReg, statusWord, hword]
  cases s.regs.err <;> rfl

/-! ## Reset -/

theorem Regs.bufWord_of_mem_nil {r : Regs} (h : r.mem = []) (b : Buf) (k : Nat) : r.bufWord b k = 0 := by
  simp only [Regs.bufWord, h, Memory.read_nil]
  rfl

/-- Settles O52: each named register at reset is a literal, and a buffer without bytes reads 0. -/
theorem resetValues : Obligations.ResetValues := by
  refine ⟨fun off n htarget => ?word, rfl, rfl, fun w => ?accepted⟩
  case word =>
    rcases target_cases htarget with hnamed | ⟨b, k, rfl, -⟩
    · have hrows : ∀ n ∈ namedRegs,
          State.readReg State.reset n = if n = .id then 0x4F545045 else if n = .cfg then 6 else 0 := by decide
      exact hrows n hnamed
    · exact Regs.bufWord_of_mem_nil rfl b k
  case accepted => rw [State.busWrite_cmd_idle w rfl, State.busy_respond, State.busy_issue]

/-- Settles O53: SRST and a low pin are the same block reset, and so is the rise of the pin. -/
theorem softResetIsHardReset : Obligations.SoftResetIsHardReset := by
  intro s v hsrst
  rw [State.busWrite_ctrl, State.writeCtrl_srst s hsrst]
  refine ⟨rfl, rfl, rfl, rfl, rfl, fun hlow => ?rise⟩
  rw [State.resetPinTurn, hlow, Bool.and_false, if_neg Bool.false_ne_true]
  exact ⟨rfl, rfl⟩

/-- Settles O54: the reset state is a literal, on which each invariant evaluates to true. -/
theorem resetMeetsInvariants : Obligations.ResetMeetsInvariants := by
  unfold Obligations.ResetMeetsInvariants
  decide

end Sys2Proof.Machine
end

section
/-! PROOF. Commands one after another: HOTP against HMAC and TRUNC (42_truncation_hotp R167), GETCODE against B32DEC and
HOTP (43_totp R187), and GETCODE against VERIFY (44_verify R202). -/

namespace Sys2Proof.Machine

/-! ## A command issued from the idle engine and completed -/

/-- The issue clears DONE, and the completion sets it. -/
theorem Regs.complete_flagsAtIssue (r : Regs) (o : RunOutcome) : r.flagsAtIssue.complete o = r.complete o := by
  cases o <;> rfl

theorem exec_busWrite_cmd {s : State} (i : Instr) (w : Word) (h : s.busy = false) :
    exec i (s.busWrite 0x00C w) = .next ((s.respond (.write false)).complete (runOf i s.regs s.wc)) := by
  rw [State.busWrite_cmd_idle w h, exec_eq_complete_runOf, State.complete, State.respond_regs, State.issue_regs,
    Regs.complete_flagsAtIssue]
  rfl

/-- A completion without an error code is that of a successful run. -/
theorem exists_ok_of_complete {s : State} {o : RunOutcome} {i : Instr} {r : Regs} {wc : ClockSample}
    (ho : o = runOf i r wc) (h : (s.complete o).regs.err = .ok) : ∃ c, o = .ok c := by
  cases o with
  | error e => exact absurd h (isCommandError_of_runOf ho.symm).1
  | ok c => exact ⟨c, rfl⟩

/-- The inversion of a successful GETCODE: each of its checks has passed. -/
theorem runGetcode_eq_ok {r : Regs} {wc : ClockSample} {c : Commit} (h : runGetcode r wc = .ok c) :
    ∃ key x, r.digitsOk = true ∧ b32decode r = .ok key ∧ resolve r.tslice wc = .ok x := by
  cases hd : r.digitsOk with
  | false =>
    rw [runGetcode_digits hd] at h
    cases h
  | true =>
    cases hk : b32decode r with
    | error e =>
      rw [runGetcode_secret hd hk] at h
      cases h
    | ok key =>
      cases hx : resolve r.tslice wc with
      | error e =>
        rw [runGetcode_clock hd hk hx] at h
        cases h
      | ok x => exact ⟨key, x, rfl, rfl, rfl⟩

/-- A GETCODE that left no error has legal digits and a secret that decodes. -/
theorem getcode_checks_of_ok {s t : State} (h : exec .getcode s = .next t) (hok : t.regs.err = .ok) :
    1 ≤ s.snapshot.digits.toNat ∧ s.snapshot.digits.toNat ≤ 10 ∧ ∃ key, b32decode s.snapshot = .ok key := by
  rw [exec_eq_complete_runOf, Host.Outcome.next.injEq] at h
  subst h
  obtain ⟨c, hc⟩ := exists_ok_of_complete rfl hok
  obtain ⟨key, -, hdigits, hkey, -⟩ := runGetcode_eq_ok hc
  obtain ⟨hmin, hmax⟩ := (Regs.digitsOk_iff _).1 hdigits
  exact ⟨hmin, hmax, key, hkey⟩

/-- TRUNC after a committed digest reads it back. -/
theorem runTrunc_after_digest {s : State} {key msg : List Byte} (hwf : s.regs.mem.wf = true)
    (hdigits : s.regs.digitsOk = true) :
    runTrunc (s.complete (.ok { digest := some (hmacSha1 key msg) })).regs =
      .ok { code := some (dynTrunc (hmacSha1 key msg) s.regs.digitCount) } := by
  have hread : (s.complete (.ok { digest := some (hmacSha1 key msg) })).regs.digestBytes = hmacSha1 key msg :=
    Memory.readBytes_writeBytes_hmacSha1 _ key msg hwf
  have hrun := runTrunc_ok (r := (s.complete (.ok { digest := some (hmacSha1 key msg) })).regs) hdigits
  rwa [hread] at hrun

/-- The first `n` bytes of a longer piece of a buffer. -/
theorem Memory.readBytes_eq_take (m : Memory) (a : Nat) {n k : Nat} (h : n ≤ k) :
    m.readBytes a n = (m.readBytes a k).take n := by
  refine List.ext_getElem (by simp [h]) fun i hi hi' => ?_
  rw [List.getElem_take, Memory.getElem_readBytes, Memory.getElem_readBytes]

/-- CODESTR after a GETCODE at a non-zero override begins with the code of that counter. -/
theorem codestr_after_getcode {s t : State} {key : List Byte} (hwf : s.regs.mem.wf = true)
    (hmin : 1 ≤ s.snapshot.digits.toNat) (hmax : s.snapshot.digits.toNat ≤ 10) (hkey : b32decode s.snapshot = .ok key)
    (htslice : s.snapshot.tslice ≠ 0) (hget : exec .getcode s = .next t) :
    t.regs.bytes .codestr s.snapshot.digitCount =
      sliceCode key s.snapshot.tslice.toNat s.snapshot.digitCount := by
  obtain ⟨t', hexec, -, ⟨-, -, -, -, -, -, hstr⟩, -⟩ := (getcodeWritesCode s hwf).1 key _ hmin hmax hkey
    (fun _ => rfl) (fun hzero => absurd hzero htslice)
  rw [hget, Host.Outcome.next.injEq] at hexec
  subst hexec
  have hle : s.snapshot.digitCount ≤ 12 := hmax.trans (by decide)
  rw [Regs.bytes, Memory.readBytes_eq_take _ _ hle, ← Regs.bytes, hstr, sliceCode, BitVec.ofNat_toNat,
    BitVec.setWidth_eq]
  exact List.take_left' (length_render _ _)

/-! ## The statements -/

/-- Settles O19: TRUNC reads back the 20 bytes that HMAC stored, so that the two commits together are that of HOTP. -/
theorem hotpIsHmacThenTrunc : Obligations.HotpIsHmacThenTrunc := by
  intro s hidle hwf hmin hmax hkey
  have hdigits := (Regs.digitsOk_iff _).2 ⟨hmin, hmax⟩
  have hkeylen := (Regs.keylenOk_iff _).2 hkey
  have hhmac := exec_busWrite_cmd .hmac 0x2 hidle
  rw [runOf, runHmac_ok hkeylen] at hhmac
  have htrunc := exec_busWrite_cmd .trunc 0x3 (State.busy_complete (s.respond (.write false))
    (.ok { digest := some (hmacSha1 s.regs.keyBytes (be64 s.regs.counter)) }))
  rw [runOf, runTrunc_after_digest (s := s.respond (.write false)) hwf hdigits] at htrunc
  refine ⟨_, _, hhmac, htrunc, ?hotp, rfl, ?digest⟩
  case hotp =>
    rw [exec_busWrite_cmd .hotp 0x4 hidle, runOf, runHotp_ok hdigits hkeylen]
    rfl
  case digest =>
    exact State.digestBytes_complete (s := s.respond (.write false))
      (c := { digest := some _, code := some (dynTrunc _ s.regs.digitCount) }) rfl rfl rfl hwf (length_hmacSha1 _ _)

/-- Settles O40: with DISC = 0 the window is the override alone, whose code GETCODE left in CODESTR. -/
theorem ownCodeVerifies : Obligations.OwnCodeVerifies := by
  intro s t v hwf htslice hget hok hdigits hseclen htext htslice' hcandlen hcand hdisc
  obtain ⟨hmin, hmax, key, hkey⟩ := getcode_checks_of_ok hget hok
  have hcode := codestr_after_getcode hwf hmin hmax hkey htslice hget
  have hkey' : b32decode v.snapshot = .ok key := (b32decode_congr hseclen fun _ _ => htext).trans hkey
  obtain ⟨u, hexec, -, -, hiff, hleast, -⟩ := verifyFindsLeastMatch v key s.snapshot.tslice (by rwa [hdigits])
    (by rwa [hdigits]) hkey' (by rwa [hdigits]) (by rw [htslice']; exact resolve_override htslice)
  have hzero : v.snapshot.disc.toNat = 0 := by
    rw [hdisc]
    rfl
  rw [hzero, hdigits] at hiff hleast
  have hlt := s.snapshot.tslice.isLt
  have hmatch : u.regs.matched = true :=
    hiff.2 ⟨s.snapshot.tslice.toNat, by omega, by omega, hcode.symm.trans hcand.symm⟩
  obtain ⟨⟨hlo, hhi, -⟩, -⟩ := hleast hmatch
  exact ⟨u, hexec, hmatch, BitVec.eq_of_toNat_eq (by omega)⟩

/-- Settles O41: the window of VERIFY is the counters within DISC of the override. -/
theorem windowTolerance : Obligations.WindowTolerance := by
  intro v key hmin hmax hkey htslice hcandlen
  obtain ⟨u, hexec, hu, -, hiff, -⟩ :=
    verifyFindsLeastMatch v key _ hmin hmax hkey hcandlen (resolve_override htslice)
  refine ⟨fun x hx64 hhi hlo hcode => ⟨u, hexec, hiff.2 ⟨x, ?_, ?_, hcode.symm⟩⟩,
    fun hnone => ⟨u, hexec, Bool.eq_false_iff.2 fun hmatch => ?miss, ?err⟩⟩
  · omega
  · omega
  case miss =>
    obtain ⟨x, hlo, hhi, hcode⟩ := hiff.1 hmatch
    exact hnone x (by omega) (by omega) (by omega) hcode.symm
  case err => rw [hu]

/-! ## Issued in turn -/

theorem State.busWrite_rw_idle {s : State} {off : Addr} {n : RegName} (v : Word) (hidle : s.busy = false)
    (htarget : target off = some n) (hrw : n.access = .rw) :
    s.busWrite off v = (s.setRegs (s.regs.store n v)).respond (.write false) := by
  rw [State.busWrite_mapped v htarget, State.writeReg_rw_idle v hidle hrw]

section
variable {s : State} (w : Word) (h : s.busy = false)
include h

theorem State.snapshot_busWrite_cmd : (s.busWrite 0x00C w).snapshot = s.regs := by
  rw [State.busWrite_cmd_idle w h]
  rfl

theorem State.regs_busWrite_cmd : (s.busWrite 0x00C w).regs = s.regs.flagsAtIssue := by
  rw [State.busWrite_cmd_idle w h]
  rfl

/-- The two halves of COUNTER, written one after the other (10_state R52). -/
theorem State.busWrite_counter (lo hi : Word) :
    (s.busWrite 0x050 lo).busWrite 0x054 hi =
      { s with regs := { s.regs with counterLo := lo, counterHi := hi }, response := some (.write false) } := by
  have hlo := State.busWrite_rw_idle (n := .counterLo) (off := 0x050) lo h (by decide) rfl
  have hhi := State.busWrite_rw_idle (s := s.busWrite 0x050 lo) (n := .counterHi) (off := 0x054) hi
    (by rw [hlo]; exact h) (by decide) rfl
  rw [hhi, hlo]
  rfl

end

theorem wf_of_exec {i : Instr} {s t : State} (h : exec i s = .next t) (hwf : s.regs.mem.wf = true) :
    t.regs.mem.wf = true := by
  rw [exec_eq_complete_runOf, Host.Outcome.next.injEq] at h
  subst h
  exact Regs.wf_complete _ hwf

/-- The digest `d` in DIGEST and its code of `n` digits in the result registers and CODESTR. -/
def Regs.HoldsCode (r : Regs) (d : List Byte) (n : Nat) : Prop :=
  r.digestBytes = d ∧ r.offset = truncOffset d ∧ r.trunc = truncWord d ∧ r.bincode = binCode d ∧
    r.code.toNat = codeValue d n ∧ r.bytes .codestr 12 = render (codeValue d n) n ++ List.replicate (12 - n) 0

theorem Regs.HoldsCode.agree {r r' : Regs} {d : List Byte} {n : Nat} (h : r.HoldsCode d n) (h' : r'.HoldsCode d n) :
    r.digestBytes = r'.digestBytes ∧ r.offset = r'.offset ∧ r.trunc = r'.trunc ∧ r.bincode = r'.bincode ∧
      r.code = r'.code ∧ r.bytes .codestr 12 = r'.bytes .codestr 12 := by
  obtain ⟨hdigest, hoffset, htrunc, hbincode, hcode, hstr⟩ := h
  obtain ⟨hdigest', hoffset', htrunc', hbincode', hcode', hstr'⟩ := h'
  exact ⟨hdigest.trans hdigest'.symm, hoffset.trans hoffset'.symm, htrunc.trans htrunc'.symm,
    hbincode.trans hbincode'.symm, BitVec.eq_of_toNat_eq (hcode.trans hcode'.symm), hstr.trans hstr'.symm⟩

section
variable {s : State} (hidle : s.busy = false) (hwf : s.regs.mem.wf = true)
include hidle hwf

theorem wf_busWrite_cmd (w : Word) : (s.busWrite 0x00C w).regs.mem.wf = true := by
  rwa [State.regs_busWrite_cmd w hidle]

theorem getcode_issued {t : State} (htslice : s.regs.tslice ≠ 0)
    (hget : exec .getcode (s.busWrite 0x00C 0x6) = .next t) (hok : t.regs.err = .ok) :
    1 ≤ s.regs.digits.toNat ∧ s.regs.digits.toNat ≤ 10 ∧ t.regs.counter = s.regs.tslice ∧
      ∃ key, b32decode s.regs = .ok key ∧
        t.regs.HoldsCode (hmacSha1 key (be64 s.regs.tslice)) s.regs.digits.toNat := by
  obtain ⟨hmin, hmax, key, hkey⟩ := getcode_checks_of_ok hget hok
  have hresults := (getcodeWritesCode _ (wf_busWrite_cmd hidle hwf 0x6)).1 key s.regs.tslice hmin hmax hkey
  rw [State.snapshot_busWrite_cmd _ hidle] at hmin hmax hkey hresults
  obtain ⟨t', hget', -, ⟨hcounter, hcode⟩, -⟩ := hresults (fun _ => rfl) (fun hzero => absurd hzero htslice)
  rw [hget, Host.Outcome.next.injEq] at hget'
  subst hget'
  exact ⟨hmin, hmax, hcounter, key, hkey, hcode⟩

theorem b32dec_issued {key : List Byte} (hkey : b32decode s.regs = .ok key) :
    ∃ u, exec .b32dec (s.busWrite 0x00C 0x1) = .next u ∧ u.busy = false ∧ u.regs.mem.wf = true ∧
      u.regs.digits = s.regs.digits ∧ u.regs.keylen.toNat ≤ 80 ∧ u.regs.keyBytes = key := by
  have hwf' := wf_busWrite_cmd hidle hwf 0x1
  obtain ⟨u, hexec, hu, hkeylen, hkeyBytes, -⟩ := (b32decWritesKey _ hwf').2 key
    (by rwa [State.snapshot_busWrite_cmd _ hidle])
  refine ⟨u, hexec, ?idle, wf_of_exec hexec hwf', ?digits, hkeylen.le.trans (length_le_of_b32decode_ok hkey), hkeyBytes⟩
  case idle =>
    rw [hu]
    rfl
  case digits =>
    rw [hu, State.regs_busWrite_cmd _ hidle]
    rfl

theorem hotp_issued (hmin : 1 ≤ s.regs.digits.toNat) (hmax : s.regs.digits.toNat ≤ 10)
    (hkeylen : s.regs.keylen.toNat ≤ 80) :
    ∃ v, exec .hotp (s.busWrite 0x00C 0x4) = .next v ∧ v.regs.err = .ok ∧ v.regs.counter = s.regs.counter ∧
      v.regs.HoldsCode (hmacSha1 s.regs.keyBytes (be64 s.regs.counter)) s.regs.digits.toNat := by
  have hresults := (hotpWritesCode _ (wf_busWrite_cmd hidle hwf 0x4)).1
  rw [State.snapshot_busWrite_cmd _ hidle] at hresults
  obtain ⟨v, hexec, hv, hcode, -⟩ := hresults hmin hmax hkeylen
  refine ⟨v, hexec, ?err, ?counter, hcode⟩
  case err => rw [hv, State.succeededWith]
  case counter =>
    rw [hv, State.regs_busWrite_cmd _ hidle]
    rfl

theorem hotp_issued_after_counter (hmin : 1 ≤ s.regs.digits.toNat) (hmax : s.regs.digits.toNat ≤ 10)
    (hkeylen : s.regs.keylen.toNat ≤ 80) (lo hi : Word) :
    ∃ v, exec .hotp (((s.busWrite 0x050 lo).busWrite 0x054 hi).busWrite 0x00C 0x4) = .next v ∧ v.regs.err = .ok ∧
      v.regs.counter = pair hi lo ∧
      v.regs.HoldsCode (hmacSha1 s.regs.keyBytes (be64 (pair hi lo))) s.regs.digits.toNat := by
  rw [State.busWrite_counter hidle]
  exact hotp_issued (s := { s with
    regs := { s.regs with counterLo := lo, counterHi := hi }
    response := some (.write false) }) hidle hwf hmin hmax hkeylen

end

/-- Settles O42: B32DEC leaves the decoded secret as the key, and with the override in COUNTER, HOTP hashes and
truncates what GETCODE does. -/
theorem getcodeIsB32decThenHotp : Obligations.GetcodeIsB32decThenHotp := by
  intro s t hidle hwf htslice hget hok
  obtain ⟨hmin, hmax, htcounter, key, hkey, htcode⟩ := getcode_issued hidle hwf htslice hget hok
  obtain ⟨u, hdec, uidle, uwf, udigits, ukeylen, ukey⟩ := b32dec_issued hidle hwf hkey
  obtain ⟨v, hhotp, hverr, hvcounter, hvcode⟩ := hotp_issued_after_counter uidle uwf (by rwa [udigits])
    (by rwa [udigits]) ukeylen s.regs.tsliceLo s.regs.tsliceHi
  rw [ukey, udigits] at hvcode
  exact ⟨u, v, hdec, hhotp, hverr, hvcounter.trans htcounter.symm, hvcode.agree htcode⟩

end Sys2Proof.Machine
end

section
/-! PROOF. The registers by their access types (10_state R22 to R27, R34 to R46, R52), and the host's `wrbuf` and `wr64`
(30_encoding R108). -/

namespace Sys2Proof.Machine

/-! ## Reads -/

theorem busRead_response_toNat {s : State} {off : Addr} {n : RegName} {x : Nat} (htarget : target off = some n)
    (hvalue : (s.readReg n).toNat = x) : ∃ w : Word, (s.busRead off).response = some (.read false w) ∧ w.toNat = x := by
  rw [State.busRead_mapped htarget]
  exact ⟨_, rfl, hvalue⟩

/-- CFG: LOCK is bit 31, DIGITS bits 4:0 (10_state R25, R26). -/
theorem toNat_readReg_cfg (s : State) :
    (s.readReg .cfg).toNat = 2 ^ 31 * s.regs.lock.toNat + s.regs.digits.toNat := by
  have hword : ∀ (lock : Bool) (digits : BitVec 5),
      (BitVec.ofBool lock ++ 0#26 ++ digits).toNat = 2 ^ 31 * lock.toNat + digits.toNat := by decide
  exact hword s.regs.lock s.regs.digits

/-! ## Writes of RW registers while BUSY = 0 -/

/-- The RW registers that are one field and no part of CFG (10_state R21), each with its width. -/
def fieldRegs : List (RegName × Nat) :=
  [(.seclen, 8), (.keylen, 7), (.candlen, 8), (.timeLo, 32), (.timeHi, 32), (.tsliceLo, 32), (.tsliceHi, 32),
   (.counterLo, 32), (.counterHi, 32), (.discLo, 32), (.discHi, 32)]

theorem target_of_mem_fieldRegs : ∀ p ∈ fieldRegs, target (offsetAddr p.1) = some p.1 ∧ p.1.access = .rw := by
  decide

theorem setWidth_extractLsb'_zero (v : Word) (k : Nat) :
    (v.extractLsb' 0 k).setWidth 32 = BitVec.ofNat 32 (v.toNat % 2 ^ k) := by
  apply BitVec.eq_of_toNat_eq
  rw [BitVec.toNat_setWidth, BitVec.extractLsb'_toNat, Nat.shiftRight_zero, BitVec.toNat_ofNat]

theorem ofNat_toNat_mod (v : Word) : v = BitVec.ofNat 32 (v.toNat % 2 ^ 32) := by
  rw [Nat.mod_eq_of_lt v.isLt, BitVec.ofNat_toNat, BitVec.setWidth_eq]

theorem readReg_store_same (s : State) (v : Word) {p : RegName × Nat} (hp : p ∈ fieldRegs) :
    (s.setRegs (s.regs.store p.1 v)).readReg p.1 = BitVec.ofNat 32 (v.toNat % 2 ^ p.2) := by
  fin_cases hp
  · exact setWidth_extractLsb'_zero v 8
  · exact setWidth_extractLsb'_zero v 7
  · exact setWidth_extractLsb'_zero v 8
  all_goals exact ofNat_toNat_mod v

/-- A store into one of these registers changes the field of that register alone. -/
theorem readReg_store_ne (s : State) (v : Word) {p : RegName × Nat} (hp : p ∈ fieldRegs) {n : RegName}
    (hne : n ≠ p.1) : (s.setRegs (s.regs.store p.1 v)).readReg n = s.readReg n := by
  fin_cases hp
  · cases n with
    | seclen => exact absurd rfl hne
    | _ => rfl
  · cases n with
    | keylen => exact absurd rfl hne
    | _ => rfl
  · cases n with
    | candlen => exact absurd rfl hne
    | _ => rfl
  · cases n with
    | timeLo => exact absurd rfl hne
    | _ => rfl
  · cases n with
    | timeHi => exact absurd rfl hne
    | _ => rfl
  · cases n with
    | tsliceLo => exact absurd rfl hne
    | _ => rfl
  · cases n with
    | tsliceHi => exact absurd rfl hne
    | _ => rfl
  · cases n with
    | counterLo => exact absurd rfl hne
    | _ => rfl
  · cases n with
    | counterHi => exact absurd rfl hne
    | _ => rfl
  · cases n with
    | discLo => exact absurd rfl hne
    | _ => rfl
  · cases n with
    | discHi => exact absurd rfl hne
    | _ => rfl

/-- The aligned offsets of the read-only registers and words (10_state R22). -/
theorem access_ro_of_mem :
    ∀ off ∈ [(0x000 : Addr), 0x014, 0x024, 0x028, 0x02C, 0x030, 0x060, 0x064, 0x0A0, 0x0A4, 0x0A8],
      (target off).map RegName.access = some .ro := by
  decide

theorem State.busWrite_ro_idle {s : State} {off : Addr} (v : Word) (hidle : s.busy = false)
    (hro : (target off).map RegName.access = some .ro) : s.busWrite off v = s.respond (.write false) := by
  obtain ⟨n, htarget, haccess⟩ := Option.map_eq_some_iff.1 hro
  rw [State.busWrite_mapped v htarget, State.writeReg_ro_idle v hidle haccess]

/-- Settles O45: a read is the register's word, and a write of an RW register is a store into its field. -/
theorem registersFollowTheirAccessType : Obligations.RegistersFollowTheirAccessType := by
  refine ⟨fun s => ?reads, fun s v hidle => ⟨fun p hp => ?rw, fun off hoff => ?ro⟩⟩
  case reads =>
    simp only [List.forall_mem_cons]
    refine ⟨busRead_response_toNat (n := .id) (by decide) rfl,
      busRead_response_toNat (n := .ctrl) (by decide) (toNat_ofBool_append 31 _),
      busRead_response_toNat (n := .cfg) (by decide) (toNat_readReg_cfg s),
      busRead_response_toNat (n := .cmd) (by decide) rfl,
      busRead_response_toNat (n := .errinfo) (by decide) rfl,
      busRead_response_toNat (n := .seclen) (by decide) (BitVec.toNat_setWidth_of_le (by decide)),
      busRead_response_toNat (n := .keylen) (by decide) (BitVec.toNat_setWidth_of_le (by decide)),
      busRead_response_toNat (n := .candlen) (by decide) (BitVec.toNat_setWidth_of_le (by decide)),
      busRead_response_toNat (n := .offset) (by decide) (BitVec.toNat_setWidth_of_le (by decide)),
      busRead_response_toNat (n := .trunc) (by decide) rfl,
      busRead_response_toNat (n := .bincode) (by decide) (BitVec.toNat_setWidth_of_le (by decide)),
      busRead_response_toNat (n := .code) (by decide) (BitVec.toNat_setWidth_of_le (by decide)),
      busRead_response_toNat (n := .timeLo) (by decide) rfl, busRead_response_toNat (n := .timeHi) (by decide) rfl,
      busRead_response_toNat (n := .tsliceLo) (by decide) rfl,
      busRead_response_toNat (n := .tsliceHi) (by decide) rfl,
      busRead_response_toNat (n := .counterLo) (by decide) rfl,
      busRead_response_toNat (n := .counterHi) (by decide) rfl,
      busRead_response_toNat (n := .discLo) (by decide) rfl, busRead_response_toNat (n := .discHi) (by decide) rfl,
      busRead_response_toNat (n := .matchctrLo) (by decide) rfl,
      busRead_response_toNat (n := .matchctrHi) (by decide) rfl, List.forall_mem_nil _⟩
  case rw =>
    obtain ⟨htarget, hrw⟩ := target_of_mem_fieldRegs p hp
    rw [State.busWrite_rw_idle v hidle htarget hrw]
    exact ⟨readReg_store_same s v hp, fun n hne => readReg_store_ne s v hp hne, rfl, rfl⟩
  case ro => exact State.busWrite_ro_idle v hidle (access_ro_of_mem off hoff)

/-! ## The host forms -/

/-- The two writes of `wr64` are two stores (30_encoding R108). -/
theorem regs_hostWr64 {s : State} {lo hi : RegName} (v : DWord) (hidle : s.busy = false)
    (hlo : target (offsetAddr lo) = some lo ∧ lo.access = .rw)
    (hhi : target (offsetAddr hi) = some hi ∧ hi.access = .rw) :
    ((hostWr64 lo hi v).foldl State.hostOp s).regs = (s.regs.store lo (loHalf v)).store hi (hiHalf v) := by
  have hfirst := State.busWrite_rw_idle (loHalf v) hidle hlo.1 hlo.2
  have hsecond := State.busWrite_rw_idle (s := s.busWrite (offsetAddr lo) (loHalf v)) (hiHalf v)
    (by rw [hfirst]; exact hidle) hhi.1 hhi.2
  simp only [hostWr64, List.foldl_cons, List.foldl_nil, State.hostOp]
  rw [hsecond, hfirst]
  rfl

/-- The lanes of a word joined from four bytes are those bytes (20_memory R72). -/
theorem laneBytes_laneWord (b0 b1 b2 b3 : Byte) : laneBytes (laneWord b0 b1 b2 b3) = [b0, b1, b2, b3] := by
  have h0 := b0.isLt
  have h1 := b1.isLt
  have h2 := b2.isLt
  have hlane : ∀ (k : Nat) (b : Byte), (laneWord b0 b1 b2 b3).toNat / 2 ^ k % 2 ^ 8 = b.toNat →
      (laneWord b0 b1 b2 b3).extractLsb' k 8 = b := by
    intro k b h
    apply BitVec.eq_of_toNat_eq
    rw [BitVec.extractLsb'_toNat, Nat.shiftRight_eq_div_pow, h]
  rw [laneBytes, hlane 0 b0, hlane 8 b1, hlane 16 b2, hlane 24 b3] <;> rw [toNat_laneWord] <;> omega

theorem getElem_laneBytes_packWord (text : List Byte) (k : Nat) {i : Nat}
    (h : i < (laneBytes (packWord text k)).length) : (laneBytes (packWord text k))[i] = text.getD (4 * k + i) 0 := by
  simp only [packWord, laneBytes_laneWord]
  match i, h with
  | 0, _ | 1, _ | 2, _ | 3, _ => rfl

/-- The first `n` writes of `wrbuf`. -/
def hostWrbufWords (b : Buf) (text : List Byte) (n : Nat) : List HostOp :=
  (List.range n).map fun k => .wr (offsetAddr (.bufWord b k)) (packWord text k)

theorem hostWrbufWords_succ (b : Buf) (text : List Byte) (n : Nat) :
    hostWrbufWords b text (n + 1) = hostWrbufWords b text n ++ [.wr (offsetAddr (.bufWord b n)) (packWord text n)] := by
  rw [hostWrbufWords, List.range_succ, List.map_append]
  rfl

section
variable {s : State} {b : Buf} (hidle : s.busy = false) (hwf : s.regs.mem.wf = true) (hrw : b ≠ .codestr)
  (text : List Byte)
include hidle hwf hrw

/-- By induction on the writes: after `n` of them the first 4n bytes of the buffer are the text's, with zeros past its
end. -/
theorem hostWrbufWords_stores {n : Nat} (hn : 4 * n ≤ b.size) :
    ((hostWrbufWords b text n).foldl State.hostOp s).busy = false ∧
    ((hostWrbufWords b text n).foldl State.hostOp s).regs.mem.wf = true ∧
    ∀ j, j < 4 * n → ((hostWrbufWords b text n).foldl State.hostOp s).regs.mem.read (b.base + j) = text.getD j 0 := by
  induction n with
  | zero => exact ⟨hidle, hwf, fun j hj => absurd hj (by omega)⟩
  | succ n ih =>
    obtain ⟨tidle, twf, tread⟩ := ih (by omega)
    rw [hostWrbufWords_succ, List.foldl_append]
    generalize (hostWrbufWords b text n).foldl State.hostOp s = t at tidle twf tread
    have hwrite : t.hostOp (.wr (offsetAddr (.bufWord b n)) (packWord text n)) = _ :=
      State.busWrite_rw_idle (packWord text n) tidle (target_bufWord hn) (access_bufWord n hrw)
    rw [List.foldl_cons, List.foldl_nil, hwrite]
    refine ⟨tidle, Memory.wf_writeBytes _ _ twf, fun j hj => ?_⟩
    change (t.regs.mem.writeBytes (b.base + 4 * n) (laneBytes (packWord text n))).read (b.base + j) = _
    by_cases hold : j < 4 * n
    case pos => rw [Memory.read_writeBytes_outside _ _ _ (by omega), tread j hold]
    case neg =>
      obtain ⟨i, rfl⟩ := Nat.exists_eq_add_of_le (not_lt.1 hold)
      have hi : i < (laneBytes (packWord text n)).length := by
        rw [packWord, laneBytes_laneWord, List.length_cons]
        simp
        omega
      rw [← Nat.add_assoc, Memory.read_writeBytes_inside _ _ i hi twf, getElem_laneBytes_packWord]

theorem bytes_hostWrbuf (hlen : text.length ≤ b.size) :
    ((hostWrbuf b text).foldl State.hostOp s).regs.bytes b text.length = text := by
  have hwords : 4 * ((text.length + 3) / 4) ≤ b.size := by
    have hsize : b.size % 4 = 0 := by cases b <;> rfl
    omega
  obtain ⟨-, -, hread⟩ := hostWrbufWords_stores hidle hwf hrw text hwords
  refine List.ext_getElem (Memory.length_readBytes _ _ _) fun i hi hi' => ?_
  exact (Memory.getElem_readBytes _ _ _ i hi).trans ((hread i (by omega)).trans (List.getElem_eq_getD 0).symm)

end

/-- Settles O51: the words of `wrbuf` follow one another in the buffer, and `wr64` writes the two halves of its
value. -/
theorem hostFormsStoreTheirValues : Obligations.HostFormsStoreTheirValues := by
  refine ⟨fun s b text hidle hwf hrw hlen => bytes_hostWrbuf hidle hwf hrw text hlen, fun s v hidle => ?wr64⟩
  refine ⟨?time, ?tslice, ?counter, ?disc⟩ <;> rw [regs_hostWr64 v hidle (by decide) (by decide)] <;>
    exact pair_hiHalf_loHalf v

end Sys2Proof.Machine
end

section
/-! PROOF. The hash in its parts: the counter's bytes (41_hmac_sha1 R146), the schedule (R141), HMAC (R145, R147), and
the rounds and the blocks (R142 to R144). -/

namespace Sys2Proof.Machine

/-! ## BE64 -/

/-- A byte of a half of a 64-bit value. -/
theorem toNat_extractLsb'_half (c : DWord) (a b : Nat) (hb : b + 8 ≤ 32) :
    ((c.extractLsb' a 32).extractLsb' b 8).toNat = c.toNat / 2 ^ (a + b) % 256 := by
  have hcut : (c.extractLsb' a 32).extractLsb' b 8 = c.extractLsb' (a + b) 8 := by
    ext j hj
    rw [BitVec.getElem_extractLsb', BitVec.getElem_extractLsb', BitVec.getLsbD_extractLsb', Nat.add_assoc,
      decide_eq_true (by omega), Bool.true_and]
  rw [hcut, BitVec.extractLsb'_toNat, Nat.shiftRight_eq_div_pow]

/-- Settles O36: the high half comes before the low one, and in each the bytes come most significant first. -/
theorem counterBytesBigEndian : Obligations.CounterBytesBigEndian := by
  intro c
  refine ⟨length_be64 c, fun i hi => ?_⟩
  match i, hi with
  | 0, _ => exact toNat_extractLsb'_half c 32 24 (by decide)
  | 1, _ => exact toNat_extractLsb'_half c 32 16 (by decide)
  | 2, _ => exact toNat_extractLsb'_half c 32 8 (by decide)
  | 3, _ => exact toNat_extractLsb'_half c 32 0 (by decide)
  | 4, _ => exact toNat_extractLsb'_half c 0 24 (by decide)
  | 5, _ => exact toNat_extractLsb'_half c 0 16 (by decide)
  | 6, _ => exact toNat_extractLsb'_half c 0 8 (by decide)
  | 7, _ => exact toNat_extractLsb'_half c 0 0 (by decide)

/-! ## The schedule -/

theorem getD_drop {α : Type} (l : List α) (k i : Nat) (d : α) : (l.drop k).getD i d = l.getD (k + i) d := by
  rw [List.getD_eq_getElem?_getD, List.getD_eq_getElem?_getD, List.getElem?_drop]

theorem getD_beWords (n : Nat) (bs : List Byte) {t : Nat} (h : t < n) :
    (beWords n bs).getD t 0 =
      be32 (bs.getD (4 * t) 0) (bs.getD (4 * t + 1) 0) (bs.getD (4 * t + 2) 0) (bs.getD (4 * t + 3) 0) := by
  induction n generalizing bs t with
  | zero => exact absurd h (Nat.not_lt_zero t)
  | succ n ih =>
    cases t with
    | zero => rfl
    | succ t =>
      rw [beWords, List.getD_cons_succ, ih (bs.drop 4) (by omega)]
      simp only [getD_drop]
      rw [Nat.mul_succ, Nat.add_comm (4 * t) 4]
      simp only [Nat.add_assoc]

/-- Extending a schedule keeps the words it has. -/
theorem extendSchedule_eq_append (n : Nat) (ws : List Word) : ∃ later, extendSchedule n ws = later ++ ws := by
  induction n generalizing ws with
  | zero => exact ⟨[], rfl⟩
  | succ n ih =>
    obtain ⟨later, hlater⟩ := ih (nextScheduleWord ws :: ws)
    exact ⟨later ++ [nextScheduleWord ws], by rw [extendSchedule, hlater, List.append_assoc]; rfl⟩

/-- Newest first, each word past the first sixteen is the next one of the words behind it. -/
def FollowsRecurrence (ws : List Word) : Prop :=
  ∀ i, i + 16 < ws.length → ws.getD i 0 = nextScheduleWord (ws.drop (i + 1))

theorem FollowsRecurrence.extendSchedule {ws : List Word} (h : FollowsRecurrence ws) (n : Nat) :
    FollowsRecurrence (extendSchedule n ws) := by
  induction n generalizing ws with
  | zero => exact h
  | succ n ih =>
    refine ih fun i hi => ?_
    cases i with
    | zero => rfl
    | succ i => exact h i (by rw [List.length_cons] at hi; omega)

/-- The schedule is the extended list, oldest first. -/
theorem getD_schedule (blk : List Byte) {t : Nat} (h : t < 80) :
    (schedule blk).getD t 0 = (extendSchedule 64 (beWords 16 blk).reverse).getD (79 - t) 0 := by
  have hlen : (extendSchedule 64 (beWords 16 blk).reverse).length = 80 := by
    rw [length_extendSchedule, List.length_reverse, length_beWords]
  rw [schedule, List.getD_reverse t (hlen.symm ▸ h), hlen]

/-- Settles O34: the schedule is the sixteen words of the block, extended by the recurrence and turned round. -/
theorem scheduleRecurrence : Obligations.ScheduleRecurrence := by
  intro blk _
  refine ⟨length_schedule blk, fun t ht => ?initial, fun t hmin hmax => ?later⟩
  case initial =>
    obtain ⟨later, hlater⟩ := extendSchedule_eq_append 64 (beWords 16 blk).reverse
    rw [schedule, hlater, List.reverse_append, List.reverse_reverse,
      List.getD_append _ _ _ _ (by rwa [length_beWords]), getD_beWords 16 blk ht]
  case later =>
    have hfollows : FollowsRecurrence (extendSchedule 64 (beWords 16 blk).reverse) :=
      FollowsRecurrence.extendSchedule (fun i hi => absurd hi (by simp)) 64
    have hback : ∀ k, k < 16 → (schedule blk).getD (t - (k + 1)) 0 =
        ((extendSchedule 64 (beWords 16 blk).reverse).drop (79 - t + 1)).getD k 0 := by
      intro k hk
      rw [getD_schedule blk (by omega), getD_drop]
      congr 1
      omega
    rw [getD_schedule blk hmax, hfollows (79 - t) (by simp; omega), nextScheduleWord, ← hback 2 (by decide),
      ← hback 7 (by decide), ← hback 13 (by decide), ← hback 15 (by decide)]

/-! ## HMAC -/

theorem hmacBlockKey_short {key : List Byte} (h : key.length ≤ 64) :
    hmacBlockKey key = key ++ List.replicate (64 - key.length) 0 := by
  rw [hmacBlockKey, if_neg (not_lt.2 h)]

/-- Settles O35: HMAC is its two hashes on the block key, which is the padded key, or, for a long key, that of its
hash. -/
theorem hmacIsOuterHashOfInnerHash : Obligations.HmacIsOuterHashOfInnerHash := by
  intro key msg
  refine ⟨length_sha1 msg, length_hmacSha1 key msg, fun hshort => ?short, fun hlong => ?long⟩
  case short =>
    rw [← hmacBlockKey_short hshort]
    exact ⟨length_hmacBlockKey key, rfl⟩
  case long => rw [hmacSha1, hmacBlockKey_long hlong, ← hmacSha1]

/-! ## The rounds and the blocks -/

/-- The rounds along a sequence of hash states. -/
theorem sha1Rounds_eq {v : Nat → HashState} (ws : List Word) (t : Nat)
    (h : ∀ i, i < ws.length → v (t + i + 1) = sha1Round (t + i) (ws.getD i 0) (v (t + i))) :
    sha1Rounds t ws (v t) = v (t + ws.length) := by
  induction ws generalizing t with
  | nil => rfl
  | cons w ws ih =>
    have hfirst : v (t + 1) = sha1Round t w (v t) := h 0 (Nat.zero_lt_succ _)
    rw [sha1Rounds, ← hfirst, ih (t + 1) fun i hi => ?_, List.length_cons]
    · congr 1
      omega
    · have := h (i + 1) (Nat.succ_lt_succ hi)
      rwa [← Nat.add_assoc, Nat.add_right_comm t i 1] at this

/-- A fold along a sequence of its values. -/
theorem foldl_eq_of_forall {α β : Type} {f : α → β → α} {H : Nat → α} (l : List β)
    (h : ∀ i (hi : i < l.length), H (i + 1) = f (H i) l[i]) : l.foldl f (H 0) = H l.length := by
  induction l using List.reverseRecOn with
  | nil => rfl
  | append_singleton l b ih =>
    have hlast := h l.length (by simp)
    rw [List.getElem_concat_length rfl] at hlast
    rw [List.foldl_concat, ih fun i hi => ?_, ← hlast, List.length_append, List.length_singleton]
    rw [h i (by rw [List.length_append]; omega), List.getElem_append_left hi]

/-- The bytes of a hash state, most significant first in each word (R144). -/
theorem getD_hashBytes (h : HashState) {j : Nat} (hj : j < 4) :
    (hashBytes h).getD j 0 = h.h0.extractLsb' (24 - 8 * j) 8 ∧
    (hashBytes h).getD (4 + j) 0 = h.h1.extractLsb' (24 - 8 * j) 8 ∧
    (hashBytes h).getD (8 + j) 0 = h.h2.extractLsb' (24 - 8 * j) 8 ∧
    (hashBytes h).getD (12 + j) 0 = h.h3.extractLsb' (24 - 8 * j) 8 ∧
    (hashBytes h).getD (16 + j) 0 = h.h4.extractLsb' (24 - 8 * j) 8 := by
  match j, hj with
  | 0, _ | 1, _ | 2, _ | 3, _ => exact ⟨rfl, rfl, rfl, rfl, rfl⟩

theorem sha1_eq_of_blocks {msg : List Byte} {H : Nat → HashState} (hinit : H 0 = sha1Init)
    (h : ∀ i, i < (sha1Pad msg).length / 64 → H (i + 1) = compress (H i) (((sha1Pad msg).drop (64 * i)).take 64)) :
    sha1 msg = hashBytes (H ((sha1Pad msg).length / 64)) := by
  rw [sha1_eq, ← hinit, foldl_eq_of_forall, length_sha1Blocks]
  intro i hi
  rw [getElem_sha1Blocks]
  exact h i (by rwa [length_sha1Blocks] at hi)

/-- The round functions and constants by the ranges of the round number (R142). -/
theorem roundFunction_roundConstant (t : Nat) (b c d : Word) :
    (t < 20 → roundFunction t b c d = (b &&& c) ^^^ (~~~b &&& d) ∧ roundConstant t = 0x5A827999) ∧
    (20 ≤ t → t < 40 → roundFunction t b c d = b ^^^ c ^^^ d ∧ roundConstant t = 0x6ED9EBA1) ∧
    (40 ≤ t → t < 60 → roundFunction t b c d = (b &&& c) ^^^ (b &&& d) ^^^ (c &&& d) ∧
      roundConstant t = 0x8F1BBCDC) ∧
    (60 ≤ t → t < 80 → roundFunction t b c d = b ^^^ c ^^^ d ∧ roundConstant t = 0xCA62C1D6) := by
  unfold roundFunction roundConstant
  refine ⟨fun h => ?_, fun h h' => ?_, fun h h' => ?_, fun h h' => ?_⟩
  · rw [if_pos h, if_pos h]
    exact ⟨rfl, rfl⟩
  · rw [if_neg (by omega), if_pos h', if_neg (by omega), if_pos h']
    exact ⟨rfl, rfl⟩
  · rw [if_neg (by omega), if_neg (by omega), if_pos h', if_neg (by omega), if_neg (by omega), if_pos h']
    exact ⟨rfl, rfl⟩
  · rw [if_neg (by omega), if_neg (by omega), if_neg (by omega), if_neg (by omega), if_neg (by omega),
      if_neg (by omega)]
    exact ⟨rfl, rfl⟩

/-- Settles O60: the five sequences together are one sequence of hash states, along which the rounds run; the blocks'
hash states are the sequence along which the compressions run. -/
theorem sha1IsItsRoundsOverItsBlocks : Obligations.Sha1IsItsRoundsOverItsBlocks := by
  refine ⟨roundFunction_roundConstant, fun h blk a b c d e ha hb hc hd he hstep => ?rounds,
    fun msg H hinit hblocks => ⟨length_sha1 msg, fun j hj => ?bytes⟩⟩
  case rounds =>
    have hsteps : ∀ i, i < (schedule blk).length →
        HashState.mk (a (0 + i + 1)) (b (0 + i + 1)) (c (0 + i + 1)) (d (0 + i + 1)) (e (0 + i + 1)) =
          sha1Round (0 + i) ((schedule blk).getD i 0)
            ⟨a (0 + i), b (0 + i), c (0 + i), d (0 + i), e (0 + i)⟩ := by
      intro i hi
      rw [length_schedule] at hi
      obtain ⟨ha', hb', hc', hd', he'⟩ := hstep i hi
      rw [Nat.zero_add, ha', hb', hc', hd', he', sha1Round]
    have hrounds := sha1Rounds_eq (v := fun t => ⟨a t, b t, c t, d t, e t⟩) (schedule blk) 0 hsteps
    rw [ha, hb, hc, hd, he, length_schedule] at hrounds
    exact congrArg (fun v : HashState => HashState.mk (h.h0 + v.h0) (h.h1 + v.h1) (h.h2 + v.h2) (h.h3 + v.h3)
      (h.h4 + v.h4)) hrounds
  case bytes =>
    rw [sha1_eq_of_blocks hinit hblocks]
    exact getD_hashBytes _ hj

end Sys2Proof.Machine
end

section
/-! PROOF. Dynamic truncation reads its window only (42_truncation_hotp R160, R161), and a rendered code can be read
back (R163, R164). -/

namespace Sys2Proof.Machine

/-! ## The window -/

section
variable {d d' : List Byte} (hnibble : (d.getD 19 0).toNat % 16 = (d'.getD 19 0).toNat % 16)
  (hwindow : ∀ k, k < 4 → d.getD ((d.getD 19 0).toNat % 16 + k) 0 = d'.getD ((d.getD 19 0).toNat % 16 + k) 0)
include hnibble

theorem truncOffset_congr : truncOffset d = truncOffset d' :=
  BitVec.eq_of_toNat_eq (by rw [toNat_truncOffset, toNat_truncOffset, hnibble])

include hwindow

theorem truncWord_congr : truncWord d = truncWord d' := by
  have hbyte : ∀ k, k < 4 → d.getD ((truncOffset d).toNat + k) 0 = d'.getD ((truncOffset d).toNat + k) 0 := by
    rw [toNat_truncOffset]
    exact hwindow
  rw [truncWord, truncWord, ← truncOffset_congr hnibble, ← hbyte 1 (by decide), ← hbyte 2 (by decide),
    ← hbyte 3 (by decide)]
  exact congrArg (be32 · _ _ _) (hbyte 0 (by decide))

theorem dynTrunc_congr (n : Nat) : dynTrunc d n = dynTrunc d' n := by
  have hcode : binCode d = binCode d' := by rw [binCode, binCode, truncWord_congr hnibble hwindow]
  rw [dynTrunc, dynTrunc, truncOffset_congr hnibble, truncWord_congr hnibble hwindow, codeValue, codeValue, hcode]

end

/-- Settles O37: the offset is the low nibble of byte 19, and everything else is a function of the word at it. -/
theorem truncationReadsItsWindow : Obligations.TruncationReadsItsWindow := by
  intro d d'
  have hoffset := toNat_truncOffset d
  exact ⟨hoffset, by omega, fun hnibble hwindow n => dynTrunc_congr hnibble hwindow n⟩

/-! ## The digits -/

theorem isDigit_of_mem_render {code n : Nat} {b : Byte} (h : b ∈ render code n) :
    0x30 ≤ b.toNat ∧ b.toNat ≤ 0x39 := by
  obtain ⟨i, hi, rfl⟩ := List.getElem_of_mem h
  rw [toNat_getElem_render code n hi]
  omega

/-- The decimal value of a text of digits, read from the left. -/
def decimalValue (text : List Byte) : Nat := text.foldl (fun acc b => 10 * acc + (b.toNat - 0x30)) 0

theorem decimalValue_concat (text : List Byte) (b : Byte) :
    decimalValue (text ++ [b]) = 10 * decimalValue text + (b.toNat - 0x30) := by
  rw [decimalValue, List.foldl_concat, ← decimalValue]

/-- The first `k` digits are the code without its last `n - k`. -/
theorem decimalValue_take_render {code n : Nat} (h : code < 10 ^ n) {k : Nat} (hk : k ≤ n) :
    decimalValue ((render code n).take k) = code / 10 ^ (n - k) := by
  induction k with
  | zero => exact (Nat.div_eq_of_lt h).symm
  | succ k ih =>
    have hlen : k < (render code n).length := by rwa [length_render]
    have hpow : n - k = n - 1 - k + 1 := by omega
    rw [List.take_succ_eq_append_getElem hlen, decimalValue_concat, ih (by omega), toNat_getElem_render, hpow,
      Nat.pow_succ, ← Nat.div_div_eq_div_mul, Nat.add_sub_cancel_left, Nat.div_add_mod, Nat.sub_right_comm, Nat.sub_sub]

/-- Settles O38: a code is a remainder by 10^n, binCode is below 10^10, and the digits of a rendering are those of the
code, most significant first. -/
theorem renderingLosesNothing : Obligations.RenderingLosesNothing := by
  refine ⟨fun d n => Nat.mod_lt _ (Nat.pow_pos (by decide)), fun d => ?ten, fun code n h => ?render⟩
  case ten =>
    have hlt := (binCode d).isLt
    exact Nat.mod_eq_of_lt (by omega)
  case render =>
    have hall := decimalValue_take_render h (le_refl n)
    rw [List.take_of_length_le (length_render code n).le, Nat.sub_self, Nat.pow_zero, Nat.div_one] at hall
    exact ⟨length_render code n, fun b hb => isDigit_of_mem_render hb, hall⟩

end Sys2Proof.Machine
end

section
/-! PROOF. What the base32 decoder gives: the key bits (40_base32 R126), the key's length (R128), and at most one
accepted text for each key (92_eei_decisions D21). -/

namespace Sys2Proof.Machine

/-! ## The joined symbol values, bit by bit -/

/-- 'A' to 'Z' are 0 to 25, '2' to '7' are 26 to 31 (R120). -/
theorem symbolValue_eq_some {b : Byte} {v : Nat} (h : symbolValue b = some v) :
    (0x41 ≤ b.toNat ∧ b.toNat ≤ 0x5A ∧ v = b.toNat - 0x41) ∨
      (0x32 ≤ b.toNat ∧ b.toNat ≤ 0x37 ∧ v = b.toNat - 0x32 + 26) := by
  simp only [symbolValue] at h
  split at h
  · cases h
    omega
  · split at h
    · cases h
      omega
    · cases h

theorem symbolValue_lt (b : Byte) : (symbolValue b).getD 0 < 2 ^ 5 := by
  cases h : symbolValue b with
  | none => decide
  | some v =>
    have := symbolValue_eq_some h
    rw [Option.getD_some]
    omega

/-- The value of a data symbol determines it. -/
theorem symbolValue_inj {b b' : Byte} (h : (symbolValue b).isSome = true) (h' : (symbolValue b').isSome = true)
    (heq : (symbolValue b).getD 0 = (symbolValue b').getD 0) : b = b' := by
  obtain ⟨v, hv⟩ := Option.isSome_iff_exists.1 h
  obtain ⟨v', hv'⟩ := Option.isSome_iff_exists.1 h'
  have hcases := symbolValue_eq_some hv
  have hcases' := symbolValue_eq_some hv'
  rw [hv, hv', Option.getD_some, Option.getD_some] at heq
  exact BitVec.eq_of_toNat_eq (by omega)

theorem symbolBits_concat (data : List Byte) (b : Byte) :
    symbolBits (data ++ [b]) = 2 ^ 5 * symbolBits data + (symbolValue b).getD 0 := by
  rw [symbolBits, List.foldl_concat, ← symbolBits, Nat.mul_comm]
  rfl

theorem symbolBits_lt (data : List Byte) : symbolBits data < 2 ^ (5 * data.length) := by
  induction data using List.reverseRecOn with
  | nil => decide
  | append_singleton data b ih =>
    have hb := symbolValue_lt b
    rw [symbolBits_concat, List.length_append, List.length_singleton, Nat.mul_succ, Nat.add_comm _ 5, Nat.pow_add]
    omega

/-- Bit `q` from the top is bit `q % 5` from the top of symbol `q / 5` (R126). -/
theorem testBit_symbolBits (data : List Byte) {q : Nat} (hq : q < 5 * data.length) :
    (symbolBits data).testBit (5 * data.length - 1 - q) =
      ((symbolValue (data.getD (q / 5) 0)).getD 0).testBit (4 - q % 5) := by
  induction data using List.reverseRecOn with
  | nil => exact absurd hq (by simp)
  | append_singleton data b ih =>
    rw [List.length_append, List.length_singleton] at hq ⊢
    rw [symbolBits_concat, Nat.testBit_two_pow_mul_add _ (symbolValue_lt b)]
    by_cases hlast : q < 5 * data.length
    case pos =>
      rw [if_neg (by omega), List.getD_append _ _ _ _ (by omega), ← ih hlast]
      congr 1
      omega
    case neg =>
      have hsymbol : q / 5 = data.length := by omega
      rw [if_pos (by omega), hsymbol, List.getD_append_right _ _ _ _ (le_refl _), Nat.sub_self, List.getD_cons_zero]
      congr 1
      omega

/-- Bit `i` of key byte `j`, as a bit of the joined symbol values. -/
theorem getLsbD_unpackKey (data : List Byte) {i j : Nat} (hj : j < keyCount data.length) (hi : i < 8) :
    ((unpackKey data).getD j 0).getLsbD i = (symbolBits data).testBit (5 * data.length - 8 - 8 * j + i) := by
  have hlen : j < (unpackKey data).length := by rwa [length_unpackKey]
  rw [← List.getElem_eq_getD (h := hlen)]
  simp only [unpackKey, List.getElem_map, List.getElem_range]
  rw [BitVec.getLsbD_ofNat, decide_eq_true hi, Bool.true_and, Nat.testBit_shiftRight]

/-- Settles O29: a key bit and a symbol bit at the same place from the top are the same bit of the joined values. -/
theorem unpackedBitsAreSymbolBits : Obligations.UnpackedBitsAreSymbolBits := by
  intro data
  refine ⟨length_unpackKey data, fun j b hj hb => ?_⟩
  rw [getLsbD_unpackKey data hj (by omega), ← testBit_symbolBits data (by omega)]
  congr 1
  omega

/-! ## An accepted text -/

/-- The text is its data characters and its pad run (R124). -/
theorem dataChars_append_pads (text : List Byte) :
    dataChars text ++ List.replicate (padCount text) 0x3D = text := by
  have hpads : text.reverse.takeWhile isPad = List.replicate (padCount text) 0x3D :=
    List.eq_replicate_iff.2 ⟨rfl, fun b hb => (isPad_iff b).1 (List.mem_takeWhile_imp hb)⟩
  have htake : text.reverse.take (padCount text) = text.reverse.takeWhile isPad := by
    have := List.take_left (l₁ := text.reverse.takeWhile isPad) (l₂ := text.reverse.dropWhile isPad)
    rwa [List.takeWhile_append_dropWhile] at this
  have hlast : (text.drop (text.length - padCount text)).reverse = List.replicate (padCount text) 0x3D := by
    rw [← hpads, ← htake, List.take_reverse]
  rw [← List.reverse_replicate, ← hlast, List.reverse_reverse, dataChars, List.take_append_drop]

/-- What the decoder's answer says of an accepted secret: its checks have passed, and its data characters are
symbols. -/
structure Accepted (r : Regs) (key : List Byte) : Prop where
  minLength : 16 ≤ r.seclen.toNat
  maxLength : r.seclen.toNat ≤ 128
  mod8 : r.seclen.toNat % 8 = 0
  pads : padCount r.secretText ∈ [0, 1, 3, 4, 6]
  leftover : leftoverBits (dataChars r.secretText) = 0
  symbols : ∀ b ∈ dataChars r.secretText, (symbolValue b).isSome = true
  key_eq : key = unpackKey (dataChars r.secretText)

theorem accepted_of_b32decode_ok {r : Regs} {key : List Byte} (h : b32decode r = .ok key) : Accepted r key := by
  obtain ⟨hmin, hmax⟩ := seclen_legal_of_b32decode_ok h
  rw [b32decode_of_legal hmin hmax, decodeText_ok_iff, length_secretText, padCountOk_iff] at h
  obtain ⟨halpha, h8, hnopad, hpads, hleftover, hkey⟩ := h
  refine ⟨hmin, hmax, h8, hpads, hleftover, fun b hb => ?symbol, hkey⟩
  have hin : inAlphabet b = true := by
    simpa using List.findIdx?_eq_none_iff.1 halpha b (List.mem_of_mem_take hb)
  have hpad : isPad b = false := List.findIdx?_eq_none_iff.1 hnopad b hb
  rwa [inAlphabet, hpad, Bool.or_false] at hin

theorem length_dataChars_add_padCount (text : List Byte) : (dataChars text).length + padCount text = text.length := by
  conv_rhs => rw [← dataChars_append_pads text, List.length_append, List.length_replicate]

/-- The key's length, from the length of the text and its pad count (R128). -/
theorem Accepted.length_key {r : Regs} {key : List Byte} (h : Accepted r key) :
    key.length = 5 * (r.seclen.toNat - padCount r.secretText) / 8 := by
  have hsum := length_dataChars_add_padCount r.secretText
  rw [length_secretText] at hsum
  rw [h.key_eq, length_unpackKey, keyCount, ← hsum, Nat.add_sub_cancel]

/-- Each pad count has its own key length within the last eight characters (R128). -/
theorem Accepted.lengths {r : Regs} {key : List Byte} (h : Accepted r key) :
    ∃ m, r.seclen.toNat = 8 * m + 8 ∧ 1 ≤ m ∧
      ((padCount r.secretText = 0 ∧ key.length = 5 * m + 5) ∨ (padCount r.secretText = 1 ∧ key.length = 5 * m + 4) ∨
        (padCount r.secretText = 3 ∧ key.length = 5 * m + 3) ∨ (padCount r.secretText = 4 ∧ key.length = 5 * m + 2) ∨
        (padCount r.secretText = 6 ∧ key.length = 5 * m + 1)) := by
  have hlen := h.length_key
  have hpads := h.pads
  have hmin := h.minLength
  have h8 := h.mod8
  simp only [List.mem_cons, List.not_mem_nil, or_false] at hpads
  exact ⟨r.seclen.toNat / 8 - 1, by omega, by omega, by omega⟩

/-- Settles O31: the text is a multiple of 8 characters long, of which the pads give no bits. -/
theorem decodedKeyLength : Obligations.DecodedKeyLength := by
  intro r key hkey
  obtain ⟨m, hseclen, hm, hlengths⟩ := (accepted_of_b32decode_ok hkey).lengths
  have hquotient : r.seclen.toNat / 8 - 1 = m := by omega
  rw [hquotient]
  refine ⟨by omega, length_le_of_b32decode_ok hkey, padCount r.secretText, ?_, rfl⟩
  simpa only [List.mem_cons, List.not_mem_nil, or_false, Prod.mk.injEq] using hlengths

/-! ## At most one accepted text -/

/-- With the leftover bits 0, the key holds every bit of the joined symbol values. -/
theorem symbolBits_inj_of_unpackKey {data data' : List Byte} (hlen : data.length = data'.length)
    (hleft : leftoverBits data = 0) (hleft' : leftoverBits data' = 0) (hkey : unpackKey data = unpackKey data') :
    symbolBits data = symbolBits data' := by
  have hcount : 8 * keyCount data.length + leftoverCount data.length = 5 * data.length := by
    rw [leftoverCount, keyCount]
    omega
  have hlow : ∀ {d : List Byte} {t : Nat}, leftoverBits d = 0 → t < leftoverCount d.length →
      (symbolBits d).testBit t = false := by
    intro d t hd ht
    have := Nat.testBit_mod_two_pow (symbolBits d) (leftoverCount d.length) t
    rw [← leftoverBits, hd, Nat.zero_testBit, decide_eq_true ht, Bool.true_and] at this
    exact this.symm
  have hhigh : ∀ {d : List Byte} {t : Nat}, 5 * d.length ≤ t → (symbolBits d).testBit t = false := fun hle =>
    Nat.testBit_lt_two_pow ((symbolBits_lt _).trans_le (Nat.pow_le_pow_right (by decide) hle))
  apply Nat.eq_of_testBit_eq
  intro t
  by_cases hleftover : t < leftoverCount data.length
  case pos => rw [hlow hleft hleftover, hlow hleft' (hlen ▸ hleftover)]
  by_cases hin : t < 5 * data.length
  case neg => rw [hhigh (not_lt.1 hin), hhigh (hlen ▸ not_lt.1 hin)]
  have hbyte := getLsbD_unpackKey data (j := keyCount data.length - 1 - (t - leftoverCount data.length) / 8)
    (i := (t - leftoverCount data.length) % 8) (by omega) (by omega)
  have hbyte' := getLsbD_unpackKey data' (j := keyCount data.length - 1 - (t - leftoverCount data.length) / 8)
    (i := (t - leftoverCount data.length) % 8) (by rw [← hlen]; omega) (by omega)
  have hplace : 5 * data.length - 8 - 8 * (keyCount data.length - 1 - (t - leftoverCount data.length) / 8) +
      (t - leftoverCount data.length) % 8 = t := by omega
  rw [← hkey, ← hlen, hplace] at hbyte'
  rw [hplace] at hbyte
  exact hbyte.symm.trans hbyte'

/-- Symbols of one length with the same joined value are the same. -/
theorem eq_of_symbolBits_eq {data data' : List Byte} (hlen : data.length = data'.length)
    (hsym : ∀ b ∈ data, (symbolValue b).isSome = true) (hsym' : ∀ b ∈ data', (symbolValue b).isSome = true)
    (heq : symbolBits data = symbolBits data') : data = data' := by
  induction data using List.reverseRecOn generalizing data' with
  | nil => exact (List.length_eq_zero_iff.1 hlen.symm).symm
  | append_singleton data b ih =>
    rcases List.eq_nil_or_concat data' with rfl | ⟨data', b', rfl⟩
    · exact absurd hlen (by simp)
    · rw [List.concat_eq_append] at hlen hsym' heq ⊢
      rw [List.length_append, List.length_append, List.length_singleton, List.length_singleton] at hlen
      rw [symbolBits_concat, symbolBits_concat] at heq
      have hb := symbolValue_lt b
      have hb' := symbolValue_lt b'
      rw [ih (Nat.add_right_cancel hlen) (fun c hc => hsym c (List.mem_append_left _ hc))
        (fun c hc => hsym' c (List.mem_append_left _ hc)) (by omega),
        symbolValue_inj (hsym b (by simp)) (hsym' b' (by simp)) (by omega)]

/-- Settles O32: the key's length gives the length and the pad count of the text, and its bits give the data
characters. -/
theorem acceptedTextIsUnique : Obligations.AcceptedTextIsUnique := by
  intro r r' key hkey hkey'
  have h := accepted_of_b32decode_ok hkey
  have h' := accepted_of_b32decode_ok hkey'
  have hshape : r.seclen.toNat = r'.seclen.toNat ∧ padCount r.secretText = padCount r'.secretText := by
    obtain ⟨m, hm, -, hlengths⟩ := h.lengths
    obtain ⟨m', hm', -, hlengths'⟩ := h'.lengths
    omega
  obtain ⟨hseclen, hpads⟩ := hshape
  have hlen : (dataChars r.secretText).length = (dataChars r'.secretText).length := by
    have hsum := length_dataChars_add_padCount r.secretText
    have hsum' := length_dataChars_add_padCount r'.secretText
    rw [length_secretText] at hsum hsum'
    omega
  have hdata : dataChars r.secretText = dataChars r'.secretText :=
    eq_of_symbolBits_eq hlen h.symbols h'.symbols
      (symbolBits_inj_of_unpackKey hlen h.leftover h'.leftover (h.key_eq.symm.trans h'.key_eq))
  refine ⟨BitVec.eq_of_toNat_eq hseclen, ?_⟩
  rw [← dataChars_append_pads r.secretText, ← dataChars_append_pads r'.secretText, hdata, hpads]

end Sys2Proof.Machine
end
